-- ==== Sys2Proof/Word.lean ====
section
/-! DEFINITION. The word types of the WK4240: the bytes of its serial lines and its two check values (R184, R185, R189, R190). -/

namespace Sys2Proof

/-- One byte of a serial line (R183). -/
abbrev Byte := BitVec 8

/-- The CRC-16 of R185. -/
abbrev Crc16 := BitVec 16

/-- The CRC-32 of R185. -/
abbrev Crc32 := BitVec 32

/-- A bay number 0 to 3, also the number of its set port, probe port and contact line (Overview, Bays and rails). -/
abbrev Bay := Fin 4

end Sys2Proof
end

