-- ==== Sys2Proof/Config.lean ====
section
/-! DEFINITION. What is fixed for the part (capacities, the unit of time) and the two values the manual leaves open. -/

namespace Sys2Proof.Config

/-- Ticks of the model's clock in one millisecond (DESIGN CHOICE, log entry 1: the largest unit in which the quarter
millisecond of R76 and the byte times of R183 are all whole). -/
def ticksPerMs : Nat := 2304

/-- One byte, ten bit times, on a set port at 115,200 baud (R183). -/
def setByteTicks : Nat := 200

/-- One byte on a probe port at 921,600 baud (R183). -/
def probeByteTicks : Nat := 25

/-- Exposure time at step 1, 0.25 ms (R76). -/
def quarterMs : Nat := 576

/-- Entries of the outbound queue (R169). -/
def outboundEntries : Nat := 32

/-- A notice finding this many entries occupied is dropped (R175). -/
def noticeLimit : Nat := 28

/-- Frames the input buffer holds (R169). -/
def inputFrames : Nat := 4

/-- Key records the stock holds (R135). -/
def keyRecords : Nat := 2048

/-- Bytes of blob memory (R137). -/
def blobBytes : Nat := 262144

/-- Time a grant stays in the history, in ms (R72). -/
def historyMs : Nat := 10000

/-- Warm-up of a probe, in ms (R77). -/
def warmUpMs : Nat := 5000

/-- The attach timer, in ms (R4). -/
def attachMs : Nat := 30000

/-- FREE VALUE (log entry 16). R107 and R112 give a SATURATED zone the gain round(dividend ÷ luminance) and state no
quotient for luminance 0. This is that quotient, as a function of the dividend's numerator and denominator; the meaning
holds it within 614..1024 as the rules do. It has no body: nothing constrains it. -/
opaque zeroQuotient : Nat → Nat → Nat

/-- FREE VALUE (log entry 38). R187 gives an age and a load sequence a field of four bytes and states nothing for a number
that the field cannot hold (an age of 4,294,967,295 ms or more, whose all-ones value means absent; a load sequence above
4,294,967,295). This is what the field then holds, as a function of the number. It has no body. -/
opaque wideValue : Nat → Nat

end Sys2Proof.Config
end

