-- ==== Sys2Proof/Syntax.lean ====
section
/-! DEFINITION. The commands the part takes: one constructor of `Instr` for each row of spec/opcode_table.json, with the
operands the row's rule gives it. Operands of line requests are the fields of the request's body (R187) as numbers, so
that a field out of range can be written and is refused by the block that owns the request. -/

namespace Sys2Proof

/-- Three characters: a region code, or a language tag whose third byte is 0 when it has two letters (R187). -/
structure Triple where
  a : Byte
  b : Byte
  c : Byte
deriving DecidableEq, Repr

/-- The job parameters a JOB START carries, each present or absent (R2, R187). -/
structure JobArgs where
  levels : Option (List Nat)
  samples : Option Nat
  target : Option Nat
  floorRatio : Option Nat
  tolerance : Option Nat
  iterLimit : Option Nat
  mask : Option (List Nat)
deriving DecidableEq, Repr

/-- The fields of a region profile (R157). The drive level is its code of R186. -/
structure ProfileFields where
  region : Triple
  systems : List Nat
  languages : List Triple
  frameRate : Nat
  drive : Nat
  powerCap : Nat
  keyClasses : List Nat
deriving DecidableEq, Repr

/-- The fields of a panel class (R158). The allowed-pairs matrix is the word of R187. -/
structure ClassFields where
  cols : Nat
  rows : Nat
  settle : Nat
  threshold : Nat
  initStep : Nat
  pairs : BitVec 16
deriving DecidableEq, Repr

/-- The fields a KEY LOAD carries (R139). -/
structure KeyFields where
  keyId : Nat
  cls : Nat
  regions : List Triple
  batch : Nat
  blobLen : Nat
  check : Crc32
  blob : List Byte
deriving DecidableEq, Repr

/-- The commands. `tag` is the tag byte of the request (R184). -/
inductive Instr
  /-- Release of NRST (R182). -/
  | powerOn
  /-- The line link receiver takes one byte (R170). -/
  | lineByteReceived (byte : Byte)
  /-- A break on the receive line (R172). -/
  | lineBreak
  /-- Dispatch of the oldest buffered frame (R174). -/
  | dispatch
  /-- The last byte of the first queued message leaves the line (R175). -/
  | outboundMessageSent
  | ident (tag : Nat)
  | status (tag : Nat)
  /-- CONFIGURE of a parameter number and a value (R180). -/
  | configure (tag number value : Nat)
  | resetFull (tag : Nat)
  | resetBays (tag : Nat)
  | jobStart (tag bay slot : Nat) (args : JobArgs)
  | jobAbort (tag bay : Nat)
  | bayResume (tag bay : Nat)
  | bayRelease (tag bay : Nat)
  | bayPark (tag bay : Nat)
  | bayUnpark (tag bay : Nat)
  | bayQuery (tag bay : Nat)
  | tunnelEnter (tag bay : Nat)
  /-- TUNNEL PASS carrying a set request: its kind byte and body (R58, R189). -/
  | tunnelPass (tag bay : Nat) (carried : List Byte)
  | tunnelExit (tag bay : Nat)
  /-- SHEET READ: the row is 0 to 11 for a plan patch, 12, 13, 14 for verify R, G, B (R190). -/
  | sheetRead (tag bay row start count : Nat)
  | mapRead (tag bay sec start count : Nat)
  | keyLoad (tag : Nat) (key : KeyFields)
  | keyWithdrawById (tag keyId : Nat)
  | keyWithdrawByBatch (tag batch : Nat)
  | keyPurgeAll (tag : Nat)
  | keyPurgeBatch (tag batch : Nat)
  | stockQueryCounts (tag : Nat)
  | stockQueryRun (tag start count : Nat)
  | stockQueryRecord (tag keyId : Nat)
  | profileLoad (tag slot : Nat) (fields : ProfileFields)
  | profileDrop (tag slot : Nat)
  | classLoad (tag classId : Nat) (fields : ClassFields)
  | classDrop (tag classId : Nat)
  /-- The poll of a bay with the sample of its contact line (R31). -/
  | poll (bay : Bay) (closed : Bool)
  | attachTimerExpiry (bay : Bay)
  | settleTimerExpiry (bay : Bay)
  /-- A frame received on a bay's set port, as the bytes received (R44, R189). -/
  | setAnswerReceived (bay : Bay) (frame : List Byte)
  | setRequestTimeout (bay : Bay)
  | keepDue (bay : Bay)
  | lapse (bay : Bay)
  | headTimerExpiry
  | overtimeExpiry (bay : Bay)
  | grantHistoryExpiry
  | warmUpExpiry (probe : Bay)
  /-- A message received on a probe port, as the bytes received (R81, R190). -/
  | probeMessageReceived (probe : Bay) (frame : List Byte)
  | probeRequestTimeout (probe : Bay)
  | solveDone (bay : Bay)
deriving DecidableEq, Repr

end Sys2Proof
end

