-- ==== Sys2Proof/Machine/State.lean ====
section
/-! DEFINITION. The state of the part, block by block, as plain data, and its value after reset. -/

namespace Sys2Proof.Machine

open Sys2Proof

/-- How a command of the part can fault: in no way. The spec's FAULT is a bay state, its refusals are replies and its
dropped frames are counted; each is a next state (log entry 35). -/
inductive Fault
deriving DecidableEq, Repr

/-- How a command can be refused by the model. -/
inductive Refusal
  /-- A row of the opcode table without a meaning: raised by exec's refused arms alone, of which there are none; safe. -/
  | notModelled (mnemonic : String)
deriving DecidableEq, Repr

/-! ## Codes of R186 -/

/-- Status codes of a reply. -/
inductive Status
  | ok | badKind | badField | badState | busy | unknownProfile | inUse | notFound | duplicate | stockFull | integrity
  | trapped
deriving DecidableEq, Repr

/-- Bay states (R3). -/
inductive BayState
  | parked | empty | attaching | ready | running | tunnel | faulted | stopped
deriving DecidableEq, Repr

/-- Stages of a job (R10). -/
inductive Stage
  | region | measure | solve | transfer | verify | keys | finish
deriving DecidableEq, Repr

/-- Verdicts of a job. -/
inductive Verdict
  | pass | rejectPanel | rejectRegion | rejectSet | rejectKey | aborted | lost
deriving DecidableEq, Repr

/-- Fault causes (R21). -/
inductive FaultCause
  | setSilent | serviceLapsed | setRefused | attachTimeout | probeSilent | probeDrift | captureExposure
  | captureQuality | driveOvertime
deriving DecidableEq, Repr

/-- Poll levels (R32). -/
inductive PollLevel
  | watch | doze1 | doze2 | doze3
deriving DecidableEq, Repr

/-- Hold states of a set port (R55). -/
inductive HoldState
  | none | entering | held | waking
deriving DecidableEq, Repr

/-- Why a key record is VOIDED, with the refusal code where the set refused (R135). -/
inductive VoidReason
  | preSendCheck
  | storedMismatch
  | setRefused (code : Byte)
  | cleanup
deriving DecidableEq, Repr

/-- Colour channels of a patch. -/
inductive Channel
  | red | green | blue | white
deriving DecidableEq, Repr

/-- Map frame states other than EMPTY, which is the absence of a frame (R114). -/
inductive FrameState
  | solved | writing | written | verified
deriving DecidableEq, Repr

/-- Transfer outcomes of a section (R101). -/
inductive SectionOutcome
  | notSent | written | incomplete | rewritten
deriving DecidableEq, Repr

/-- Kinds of solve (R14). -/
inductive SolveKind
  | first | resolve
deriving DecidableEq, Repr

/-- Engine states other than IDLE, which is the absence of a current capture record (R84). -/
inductive CapturePhase
  | referencing | exposing | sampling
deriving DecidableEq, Repr

/-- Flags of a reading (R102). -/
inductive ReadFlag
  | valid | saturated | dark | masked
deriving DecidableEq, Repr

/-- Status of one zone in a FRAME (R81). -/
inductive ZoneStatus
  | resolved | saturated | unresolved
deriving DecidableEq, Repr

/-- What STARTED names as the reset cause (R182). -/
inductive ResetCause
  | powerOn | resetFull
deriving DecidableEq, Repr

/-- The two supply rails (R62). -/
inductive Rail
  | railA | railB
deriving DecidableEq, Repr

/-- A clock that can be stopped, paused, or running: running it reads `base` plus the ticks since `since`. -/
inductive Clock
  | stopped
  | running (base since : Nat)
  | paused (value : Nat)
deriving DecidableEq, Repr

/-! ## Messages of the line link -/

/-- The identity fields of a bay's record (R1). -/
structure Identity where
  serial : List Byte
  classId : Nat
  caps : List Triple
deriving DecidableEq, Repr

/-- What a LINK ERROR notice reports (R173). -/
inductive LinkError
  | length (found : Nat)
  | crc (kind tag : Byte)
  | brk (dropped : Bool)
  | overrun (kind tag : Byte)
deriving DecidableEq, Repr

/-- The notices of R177 with the fields of R188. -/
inductive Notice
  | started (cause : ResetCause)
  | identified (bay : Bay) (identity : Identity)
  | stage (bay : Bay) (stage : Stage) (pass : Nat)
  | stockShort (bay : Bay) (cls : Nat) (region : Triple)
  | keyBound (keyId cls batch : Nat) (bay : Bay) (serial : List Byte)
  | keyVoided (keyId cls batch : Nat) (bay : Bay) (serial : Option (List Byte)) (reason : VoidReason)
  | jobDone (bay : Bay) (verdict : Verdict) (serial : List Byte) (stage : Stage) (pass detail : Nat)
  | fault (bay : Bay) (cause : FaultCause) (origin : BayState) (stage : Option Stage) (detail : Nat)
  | removed (bay : Bay) (serial : List Byte) (lost : Bool)
  | linkError (error : LinkError)
deriving DecidableEq, Repr

/-- A message placed in the outbound queue (R175): a reply with the bytes after its status byte, or a notice with its
notices-lost flag (R176). -/
inductive OutMsg
  | reply (kind tag : Nat) (status : Status) (body : List Byte)
  | notice (lost : Bool) (notice : Notice)
deriving DecidableEq, Repr

/-- A checked frame of the input buffer (R171). -/
structure InFrame where
  kind : Byte
  tag : Byte
  body : List Byte
deriving DecidableEq, Repr

/-- The receiver's phase with its partial frame: the length bytes taken so far, or the length expected and the bytes
taken after the length (R169, R170). -/
inductive Receiver
  | hunt
  | length (taken : List Byte)
  | frame (expected : Nat) (taken : List Byte)
deriving DecidableEq, Repr

/-- The framing error counts (R169). -/
structure ErrorCounts where
  length : Nat
  crc : Nat
  brk : Nat
  overrun : Nat
deriving DecidableEq, Repr

/-- The ten station parameters in the order of R180, each in its unit. -/
structure Params where
  watchDown : Nat
  doze1Down : Nat
  doze2Down : Nat
  keepInterval : Nat
  serviceDeadline : Nat
  grantWindow : Nat
  sameRail : Nat
  crossRail : Nat
  holdLimit : Nat
  refInterval : Nat
deriving DecidableEq, Repr

/-- The line link interface (R169). The outbound queue is the placed messages in transmit order and the number of
entries set aside; every other of its 32 entries is free. `resetPending` holds from the acceptance of RESET FULL until it
takes effect (R182). -/
structure Link where
  rx : Receiver
  inBuf : List InFrame
  placed : List OutMsg
  setAside : Nat
  lost : Nat
  lostPending : Bool
  errs : ErrorCounts
  params : Params
  resetPending : Bool
deriving DecidableEq, Repr

/-! ## Bay controller and poller -/

/-- The job parameters with defaults filled in (R2). -/
structure JobParams where
  levels : List Nat
  samples : Nat
  target : Nat
  floorRatio : Nat
  tolerance : Nat
  iterLimit : Nat
  mask : List Nat
deriving DecidableEq, Repr

/-- The job fields of a bay's record (R1). The job is open while the verdict is absent. `solveKind` is the kind of the
solve last asked for, which RESUME repeats (R23). -/
structure Job where
  slot : Nat
  params : JobParams
  stage : Stage
  cursor : Nat
  overtime : Nat
  pass : Nat
  keyCursor : Nat
  attempts : Nat
  keyId : Option Nat
  verdict : Option Verdict
  solveKind : SolveKind
deriving DecidableEq, Repr

/-- One bay controller: the bay job record and the working items of R1. -/
structure BayRec where
  state : BayState
  origin : Option BayState
  faults : List FaultCause
  overflow : Bool
  firstKeep : Bool
  identity : Option Identity
  job : Option Job
  discarded : Nat
  adjustments : Nat
  overtimes : Nat
  requests : Nat
  attachTimer : Option Nat
  settleTimer : Option Nat
  showing : Bool
  showPending : Bool
  entry : Option Nat
deriving DecidableEq, Repr

/-- One presence poller (R30). -/
structure Poller where
  level : PollLevel
  emptyTime : Clock
  next : Option Nat
  helloOut : Bool
  helloAnswered : Bool
deriving DecidableEq, Repr

/-! ## Set port, sequencer, key transfer -/

/-- What a set service request is (R45). -/
inductive ReqWhat
  | hello | identify | keep | hold | wake | show | dark | setRegion
  | storeKey (index : Nat) (last : Bool)
  | keyEnd
  | openSection (sec : Nat)
  | burst (sec index : Nat) (last : Bool)
  | closeSection (sec : Nat)
  | applyMap | finish
  | forwarded (kind : Byte)
deriving DecidableEq, Repr

/-- For whom a request was placed: the stage's work or the poller, a cleanup or return from FAULTED, the restart after a
revocation (R71), or nobody any more, its owner having been cleaned up while it was outstanding (R26). -/
inductive Owner
  | work | cleanup | restart | orphan
deriving DecidableEq, Repr

/-- A set service request with its owner and body. -/
structure PortReq where
  what : ReqWhat
  owner : Owner
  body : List Byte
deriving DecidableEq, Repr

/-- The outstanding request of a set port and the instant its answer timeout expires (R43). -/
structure Outstanding where
  req : PortReq
  deadline : Nat
deriving DecidableEq, Repr

/-- Pass state of a tunnel record with the tag of its TUNNEL PASS (R57). -/
inductive PassState
  | none
  | queued (tag : Nat)
  | sent (tag : Nat)
deriving DecidableEq, Repr

/-- A tunnel record (R57). -/
structure Tunnel where
  trap : Nat
  fwd : Nat
  pass : PassState
deriving DecidableEq, Repr

/-- One set port (R42). `keepTaken` is what the keep-alive clock read when its last reaching of the interval was taken, none
since the clock's start (R49, log entry 22). -/
structure Port where
  queue : List PortReq
  outstanding : Option Outstanding
  linkAlive : Bool
  keepClock : Clock
  keepDue : Bool
  keepTaken : Option Nat
  lapseClock : Clock
  openSection : Option Nat
  hold : HoldState
  wakePending : Bool
  tunnel : Option Tunnel
deriving DecidableEq, Repr

/-- Phases of a map transfer sequencer (R120). -/
inductive SeqPhase
  | idle | opening | bursting | closing | applying | halted
deriving DecidableEq, Repr

/-- One map transfer sequencer (R120), with a rewrite count and the confirmed zones for each of the 12 sections. -/
structure Sequencer where
  phase : SeqPhase
  sec : Nat
  burst : Nat
  rewrites : Vector Nat 12
  confirmed : Vector Nat 12
deriving DecidableEq, Repr

/-- Phases of a key transfer (R148). -/
inductive XferPhase
  | idle | chunks | ending | halted
deriving DecidableEq, Repr

/-- One key transfer (R148). -/
structure Xfer where
  phase : XferPhase
  keyId : Option Nat
  chunks : Nat
  cursor : Nat
deriving DecidableEq, Repr

/-! ## Governor -/

/-- A request waiting for an admission (R62). -/
structure Waiting where
  bay : Bay
  joined : Nat
deriving DecidableEq, Repr

/-- A held admission with the instant its overtime timer expires (R62, R70). -/
structure Held where
  bay : Bay
  granted : Nat
  expires : Nat
deriving DecidableEq, Repr

/-- A grant of the history; its rail is its bay's (R62). -/
structure Grant where
  time : Nat
  bay : Bay
deriving DecidableEq, Repr

/-- The drive budget governor (R62); the history is newest first. -/
structure Governor where
  queue : List Waiting
  headTimer : Option Nat
  held : List Held
  history : List Grant
  lastA : Option Nat
  lastB : Option Nat
deriving DecidableEq, Repr

/-! ## Capture engine -/

/-- Warm-up state of a probe (R76). -/
inductive WarmUp
  | warming (ends : Nat)
  | warm
  | stopped
deriving DecidableEq, Repr

/-- The request sent to a probe and not yet delivered (R76, R80). -/
structure ProbeReq where
  isRef : Bool
  seqNo : Nat
  step : Nat
  cols : Nat
  rows : Nat
  deadline : Nat
deriving DecidableEq, Repr

/-- A probe record (R76). -/
structure Probe where
  warm : WarmUp
  step : Nat
  seeded : Bool
  factor : Nat
  count : Nat
  fault : Bool
  seqNo : Nat
  outstanding : Option ProbeReq
deriving DecidableEq, Repr

/-- A capture queue entry; the patch is its sheet row, 0 to 11 or 12, 13, 14 for verify R, G, B (R82, R190). -/
structure Entry where
  bay : Bay
  row : Nat
  samples : Nat
  cols : Nat
  rows : Nat
  number : Nat
deriving DecidableEq, Repr

/-- One zone of a FRAME (R81). -/
structure ZoneEntry where
  lum : Nat
  status : ZoneStatus
deriving DecidableEq, Repr

/-- The current capture record (R84). -/
structure Current where
  phase : CapturePhase
  entry : Entry
  exposures : Nat
  accepted : List (List ZoneEntry)
  discarded : Nat
deriving DecidableEq, Repr

/-- The capture engine: IDLE when there is no current capture record. -/
structure Engine where
  probes : Vector Probe 4
  queue : List Entry
  lastNumber : Nat
  current : Option Current
deriving DecidableEq, Repr

/-! ## Map store -/

/-- A reading (R102); its zone index is its place in the row. -/
structure Reading where
  lum : Nat
  flag : ReadFlag
deriving DecidableEq, Repr

/-- A filled sheet row with its recorded grid and, for a verify row, its measured uniformity (R101). -/
structure Row where
  cols : Nat
  rows : Nat
  readings : List Reading
  uniformity : Option Nat
deriving DecidableEq, Repr

/-- One cell of a section (R101). -/
structure Cell where
  gain : Nat
  masked : Bool
deriving DecidableEq, Repr

/-- A solve summary (R101). -/
structure Summary where
  kind : SolveKind
  target : Nat
  belowFloor : Nat
  beyondRange : Nat
  predicted : Option Nat
deriving DecidableEq, Repr

/-- One section of a map frame (R101). -/
structure Section where
  cells : List Cell
  summary : Summary
  outcome : SectionOutcome
deriving DecidableEq, Repr

/-- A map frame that is not EMPTY (R101). -/
structure MapFrame where
  state : FrameState
  cols : Nat
  rows : Nat
  sections : List Section
deriving DecidableEq, Repr

/-- A bay area of the map store: plan rows 0 to 11, verify rows 12 to 14, and the map frame (R101). -/
structure Area where
  rows : Vector (Option Row) 15
  frame : Option MapFrame
deriving DecidableEq, Repr

/-! ## Key stock and profile table -/

/-- State of a key record with the fields that are present in it (R135). -/
inductive KeyState
  | available
  | reserved (bay : Bay)
  | sending (bay : Bay)
  | bound (serial : List Byte)
  | voided (serial : Option (List Byte)) (reason : VoidReason)
deriving DecidableEq, Repr

/-- A key record (R135); the blob is absent once erased (R137). -/
structure KeyRec where
  keyId : Nat
  cls : Nat
  regions : List Triple
  batch : Nat
  blobLen : Nat
  check : Crc32
  loadSeq : Nat
  state : KeyState
  blob : Option (List Byte)
deriving DecidableEq, Repr

/-- An entry of the waiting list (R144). -/
structure KeyWait where
  bay : Bay
  cls : Nat
  region : Triple
  joined : Nat
deriving DecidableEq, Repr

/-- The key stock: records in load order, next load sequence, waiting list in join order (R135, R138, R144). -/
structure Stock where
  records : List KeyRec
  nextSeq : Nat
  waiting : List KeyWait
deriving DecidableEq, Repr

/-- A region profile slot: EMPTY or LOADED, with its reference count (R157, R159). -/
structure ProfileSlot where
  content : Option ProfileFields
  refs : Nat
deriving DecidableEq, Repr

/-- A panel class slot: EMPTY or LOADED, with its reference count (R158, R159). -/
structure ClassSlot where
  content : Option ClassFields
  refs : Nat
deriving DecidableEq, Repr

/-- The profile table; class slot n is at place n - 1 (R157, R158). -/
structure Table where
  profiles : Vector ProfileSlot 16
  classes : Vector ClassSlot 8
deriving DecidableEq, Repr

/-- The frame last put on each line the part drives (log entry 5). -/
structure LinesOut where
  ltx : List Byte
  sptx : Vector (List Byte) 4
  pptx : Vector (List Byte) 4
deriving DecidableEq, Repr

/-! ## The whole state -/

/-- The state of the part. `pending` is the queue of commands, first in, first out; `now` is the time in ticks since the
last power-on or RESET FULL took effect (log entry 1). -/
structure State where
  pending : List Instr
  now : Nat
  link : Link
  bays : Vector BayRec 4
  pollers : Vector Poller 4
  ports : Vector Port 4
  seqs : Vector Sequencer 4
  xfers : Vector Xfer 4
  gov : Governor
  engine : Engine
  areas : Vector Area 4
  solves : Vector (Option SolveKind) 4
  stock : Stock
  table : Table
  out : LinesOut
deriving DecidableEq, Repr

/-! ## Reset values -/

/-- Defaults of the station parameters (R180). -/
def Params.reset : Params :=
  { watchDown := 30, doze1Down := 120, doze2Down := 600, keepInterval := 800, serviceDeadline := 2000,
    grantWindow := 1600, sameRail := 400, crossRail := 150, holdLimit := 4000, refInterval := 48 }

/-- The line link after a reset (R169), with the STARTED notice as its first placed message (R182). -/
def Link.reset (cause : ResetCause) : Link :=
  { rx := .hunt, inBuf := [], placed := [.notice false (.started cause)], setAside := 0, lost := 0, lostPending := false,
    errs := { length := 0, crc := 0, brk := 0, overrun := 0 }, params := Params.reset, resetPending := false }

/-- A bay's record in EMPTY (R3). -/
def BayRec.reset : BayRec :=
  { state := .empty, origin := none, faults := [], overflow := false, firstKeep := false, identity := none, job := none,
    discarded := 0, adjustments := 0, overtimes := 0, requests := 0, attachTimer := none, settleTimer := none,
    showing := false, showPending := false, entry := none }

/-- A poller after a reset: its first poll falls at the reset's instant (R30). -/
def Poller.reset : Poller :=
  { level := .watch, emptyTime := .running 0 0, next := some 0, helloOut := false, helloAnswered := false }

/-- A set port after any reset and after a removal (R42). -/
def Port.reset : Port :=
  { queue := [], outstanding := none, linkAlive := false, keepClock := .stopped, keepDue := false,
    keepTaken := none, lapseClock := .stopped, openSection := none, hold := .none, wakePending := false, tunnel := none }

/-- A sequencer after any reset and after a removal (R120). -/
def Sequencer.reset : Sequencer :=
  { phase := .idle, sec := 0, burst := 0, rewrites := Vector.replicate 12 0, confirmed := Vector.replicate 12 0 }

/-- A key transfer in IDLE with no key (R148); its chunk count and cursor are 0, the model's choice (log entry 40). -/
def Xfer.reset : Xfer := { phase := .idle, keyId := none, chunks := 0, cursor := 0 }

/-- The governor after power-on (R74). -/
def Governor.reset : Governor :=
  { queue := [], headTimer := none, held := [], history := [], lastA := none, lastB := none }

/-- A probe record after power-on: WARMING with 5,000 ms left (R77, R78, R79, R98). -/
def Probe.reset : Probe :=
  { warm := .warming (Config.warmUpMs * Config.ticksPerMs), step := 6, seeded := false, factor := 1024, count := 0,
    fault := false, seqNo := 0, outstanding := none }

/-- The capture engine after power-on (R98). -/
def Engine.reset : Engine :=
  { probes := Vector.replicate 4 Probe.reset, queue := [], lastNumber := 0, current := none }

/-- An emptied bay area (R101). -/
def Area.reset : Area := { rows := Vector.replicate 15 none, frame := none }

/-- The key stock after power-on (R156). -/
def Stock.reset : Stock := { records := [], nextSeq := 1, waiting := [] }

/-- The profile table after power-on (R167). -/
def Table.reset : Table :=
  { profiles := Vector.replicate 16 { content := none, refs := 0 },
    classes := Vector.replicate 8 { content := none, refs := 0 } }

/-- Nothing has been put on any line (log entry 5). -/
def LinesOut.reset : LinesOut :=
  { ltx := [], sptx := Vector.replicate 4 [], pptx := Vector.replicate 4 [] }

/-- Every block at its power-on values, with STARTED placed for the cause (R182). -/
def State.started (cause : ResetCause) : State :=
  { pending := [], now := 0, link := Link.reset cause, bays := Vector.replicate 4 BayRec.reset,
    pollers := Vector.replicate 4 Poller.reset, ports := Vector.replicate 4 Port.reset,
    seqs := Vector.replicate 4 Sequencer.reset, xfers := Vector.replicate 4 Xfer.reset, gov := Governor.reset,
    engine := Engine.reset, areas := Vector.replicate 4 Area.reset, solves := Vector.replicate 4 none,
    stock := Stock.reset, table := Table.reset, out := LinesOut.reset }

/-- The part right after power-on (R182). -/
def State.reset : State := State.started .powerOn

end Sys2Proof.Machine
end

