-- ==== Sys2Proof/Machine/Ops.lean ====
section
/-! DEFINITION. The named operations over the state that every block shares: byte order, rounding and time, one getter and
one update per block, the slots of the profile table, and the placing of replies and notices (R175, R176). -/

namespace Sys2Proof.Machine

open Sys2Proof

/-! ## Bytes, rounding, time -/

/-- A number as one byte. -/
def byteOf (n : Nat) : Byte := BitVec.ofNat 8 n

/-- A two-byte field, most significant byte first (Overview, Byte order). -/
def be16 (n : Nat) : List Byte := [byteOf (n / 256), byteOf n]

/-- A four-byte field, most significant byte first. -/
def be32 (n : Nat) : List Byte := [byteOf (n / 16777216), byteOf (n / 65536), byteOf (n / 256), byteOf n]

/-- The number two bytes stand for. -/
def nat16 (a b : Byte) : Nat := a.toNat * 256 + b.toNat

/-- The number four bytes stand for. -/
def nat32 (a b c d : Byte) : Nat := nat16 a b * 65536 + nat16 c d

/-- The quotient a ÷ b rounded to the nearest whole number, halfway upward (Overview, Arithmetic). -/
def roundDiv (a b : Nat) : Nat := (2 * a + b) / (2 * b)

/-- A count that stops at 65,535 raised by one (R29, R169, R57). -/
def bump (n : Nat) : Nat := min (n + 1) 65535

/-- Milliseconds as ticks. -/
def ms (n : Nat) : Nat := n * Config.ticksPerMs

/-- Seconds as ticks. -/
def sec (n : Nat) : Nat := ms (n * 1000)

/-- The whole milliseconds from an instant to a later one (log entry 18). -/
def ageMs (now t : Nat) : Nat := (now - t) / Config.ticksPerMs

/-- What a clock reads; a stopped clock reads nothing. -/
def Clock.value (now : Nat) : Clock → Option Nat
  | .stopped => none
  | .running base since => some (base + (now - since))
  | .paused v => some v

/-- A clock started from 0. -/
def Clock.start (now : Nat) : Clock := .running 0 now

/-- Pausing a running clock keeps its value (R50). -/
def Clock.pause (now : Nat) : Clock → Clock
  | .stopped => .stopped
  | .running base since => .paused (base + (now - since))
  | .paused v => .paused v

/-- Resuming a paused clock from the value it keeps (R50). -/
def Clock.resume (now : Nat) : Clock → Clock
  | .stopped => .stopped
  | .running base since => .running base since
  | .paused v => .running v now

/-- A running clock has reached a time. -/
def Clock.reached (now limit : Nat) : Clock → Bool
  | .stopped => false
  | .running base since => decide (limit ≤ base + (now - since))
  | .paused _ => false

/-- A timer armed for an instant has expired. -/
def expired (now : Nat) : Option Nat → Bool
  | none => false
  | some t => decide (t ≤ now)

/-! ## One getter and one update per block -/

/-- Replace the item of a vector at one index. -/
def updAt {α : Type} {n : Nat} (v : Vector α n) (i : Fin n) (x : α) : Vector α n := v.set i.val x i.isLt

/-- The item of a 12-vector at a section id; 0 beyond it. -/
def get12 (v : Vector Nat 12) (i : Nat) : Nat := if h : i < 12 then v.get ⟨i, h⟩ else 0

/-- A 12-vector with the item at a section id replaced; unchanged beyond it. -/
def set12 (v : Vector Nat 12) (i x : Nat) : Vector Nat 12 := if h : i < 12 then updAt v ⟨i, h⟩ x else v

def State.bay (s : State) (b : Bay) : BayRec := s.bays.get b
def State.poller (s : State) (b : Bay) : Poller := s.pollers.get b
def State.port (s : State) (b : Bay) : Port := s.ports.get b
def State.seq (s : State) (b : Bay) : Sequencer := s.seqs.get b
def State.xfer (s : State) (b : Bay) : Xfer := s.xfers.get b
def State.area (s : State) (b : Bay) : Area := s.areas.get b
def State.solve (s : State) (b : Bay) : Option SolveKind := s.solves.get b
def State.probe (s : State) (b : Bay) : Probe := s.engine.probes.get b

def State.setLink (s : State) (l : Link) : State := { s with link := l }
def State.setGov (s : State) (g : Governor) : State := { s with gov := g }
def State.setEngine (s : State) (e : Engine) : State := { s with engine := e }
def State.setStock (s : State) (k : Stock) : State := { s with stock := k }
def State.setTable (s : State) (t : Table) : State := { s with table := t }
def State.setOut (s : State) (o : LinesOut) : State := { s with out := o }
def State.setBay (s : State) (b : Bay) (r : BayRec) : State := { s with bays := updAt s.bays b r }
def State.setPoller (s : State) (b : Bay) (p : Poller) : State := { s with pollers := updAt s.pollers b p }
def State.setPort (s : State) (b : Bay) (p : Port) : State := { s with ports := updAt s.ports b p }
def State.setSeq (s : State) (b : Bay) (q : Sequencer) : State := { s with seqs := updAt s.seqs b q }
def State.setXfer (s : State) (b : Bay) (x : Xfer) : State := { s with xfers := updAt s.xfers b x }
def State.setArea (s : State) (b : Bay) (a : Area) : State := { s with areas := updAt s.areas b a }
def State.setSolve (s : State) (b : Bay) (k : Option SolveKind) : State := { s with solves := updAt s.solves b k }

/-- Update one probe record. -/
def State.setProbe (s : State) (b : Bay) (p : Probe) : State :=
  s.setEngine { s.engine with probes := updAt s.engine.probes b p }

/-- Update the job fields of a bay, where there are any. -/
def State.modJob (s : State) (b : Bay) (f : Job → Job) : State :=
  s.setBay b { s.bay b with job := (s.bay b).job.map f }

/-- The bays in bay order. -/
def allBays : List Bay := [0, 1, 2, 3]

/-- A bay number of a request as a bay (Overview, Bay-relative requests). -/
def bayOf (n : Nat) : Option Bay := if h : n < 4 then some ⟨n, h⟩ else none

/-- The rail of a bay (R62). -/
def railOf (b : Bay) : Rail := if b.val < 2 then .railA else .railB

/-! ## Job and table lookups -/

/-- A job is open from the acceptance of JOB START until it receives its verdict (R1). -/
def Job.isOpen (j : Job) : Bool := j.verdict.isNone

/-- The bay has an open job. -/
def BayRec.jobOpen (r : BayRec) : Bool :=
  match r.job with
  | none => false
  | some j => j.isOpen

/-- The stage in a bay's record, or none. -/
def BayRec.stage? (r : BayRec) : Option Stage := r.job.map Job.stage

/-- The bay is RUNNING in the stage. -/
def BayRec.runningIn (r : BayRec) (st : Stage) : Bool :=
  decide (r.state = .running) && decide (r.stage? = some st)

/-- The set serial of a bay's record; the empty text when absent. -/
def BayRec.serial (r : BayRec) : List Byte :=
  match r.identity with
  | none => []
  | some i => i.serial

/-- The place of a class slot, for ids 1 to 8 (R158). -/
def classIndex (id : Nat) : Option (Fin 8) :=
  if h : 1 ≤ id ∧ id ≤ 8 then some ⟨id - 1, by omega⟩ else none

/-- The place of a profile slot, 0 to 15 (R157). -/
def profileIndex (slot : Nat) : Option (Fin 16) := if h : slot < 16 then some ⟨slot, h⟩ else none

/-- The panel class a class id names, if it is 1 to 8 and its slot LOADED (R168). -/
def Table.panelClass (t : Table) (id : Nat) : Option ClassFields :=
  match classIndex id with
  | none => none
  | some i => (t.classes.get i).content

/-- The region profile in a slot, if it is 0 to 15 and LOADED (R168). -/
def Table.profile (t : Table) (slot : Nat) : Option ProfileFields :=
  match profileIndex slot with
  | none => none
  | some i => (t.profiles.get i).content

/-- The panel class named by a bay's record, if loaded. -/
def State.bayClass (s : State) (b : Bay) : Option ClassFields :=
  match (s.bay b).identity with
  | none => none
  | some i => s.table.panelClass i.classId

/-- The profile named by a bay's job, if loaded. -/
def State.bayProfile (s : State) (b : Bay) : Option ProfileFields :=
  match (s.bay b).job with
  | none => none
  | some j => s.table.profile j.slot

/-- A slot's reference count changed by f (R159). -/
def Table.refProfile (t : Table) (slot : Nat) (f : Nat → Nat) : Table :=
  match profileIndex slot with
  | none => t
  | some i => { t with profiles := updAt t.profiles i { t.profiles.get i with refs := f (t.profiles.get i).refs } }

/-- A slot's reference count changed by f (R159); an id outside 1 to 8 references no slot. -/
def Table.refClass (t : Table) (id : Nat) (f : Nat → Nat) : Table :=
  match classIndex id with
  | none => t
  | some i => { t with classes := updAt t.classes i { t.classes.get i with refs := f (t.classes.get i).refs } }

/-- The references of a bay's open job, raised at its start and dropped at its verdict (R159). -/
def State.modRefs (s : State) (b : Bay) (f : Nat → Nat) : State :=
  match (s.bay b).job with
  | none => s
  | some j =>
    let t := s.table.refProfile j.slot f
    match (s.bay b).identity with
    | none => s.setTable t
    | some i => s.setTable (t.refClass i.classId f)

/-! ## Outbound queue -/

/-- Occupied entries: set aside or holding a message (R175). -/
def Link.occupied (l : Link) : Nat := l.placed.length + l.setAside

/-- A notice offered to the queue: placed with the lost flag when fewer than 28 entries are occupied, otherwise dropped and
counted (R175, R176). -/
def Link.offerNotice (l : Link) (n : Notice) : Link :=
  if l.occupied < Config.noticeLimit then
    { l with placed := l.placed ++ [.notice l.lostPending n], lostPending := false }
  else { l with lost := bump l.lost, lostPending := true }

/-- Placing a notice; none is placed or counted while a RESET FULL is waiting to take effect (R182). -/
def placeNotice (n : Notice) (s : State) : State :=
  if s.link.resetPending then s else s.setLink (s.link.offerNotice n)

/-- A notice concerning a bay, withheld while the bay is FAULTED (R21). -/
def bayNotice (b : Bay) (n : Notice) (s : State) : State :=
  if (s.bay b).state = .faulted then s else placeNotice n s

/-- A reply fills an entry set aside by R174 and takes its place in the transmit order (R175); with none set aside there is
no entry to fill, which no request meets (log entry 27). -/
def Link.fillReply (l : Link) (kind tag : Nat) (st : Status) (body : List Byte) : Link :=
  match l.setAside with
  | 0 => l
  | n + 1 => { l with placed := l.placed ++ [.reply kind tag st body], setAside := n }

/-- Placing a reply; a request still pending at a RESET FULL is ended without one (R182). -/
def placeReply (kind tag : Nat) (st : Status) (body : List Byte) (s : State) : State :=
  if s.link.resetPending then s else s.setLink (s.link.fillReply kind tag st body)

/-- Setting an entry aside for a request's reply (R174). -/
def setEntryAside (s : State) : State := s.setLink { s.link with setAside := s.link.setAside + 1 }

/-- An entry is free and the part dispatches (R174, R182). -/
def canDispatch (s : State) : Bool :=
  decide (s.link.occupied < Config.outboundEntries) && !s.link.resetPending

/-! ## Small operations of single blocks -/

/-- Adds one to a bay's set requests sent counter (R29). -/
def countRequest (b : Bay) (s : State) : State :=
  s.setBay b { s.bay b with requests := bump (s.bay b).requests }

/-- Release of a bay's admission: it leaves the held set and its overtime timer stops (R69). -/
def releaseAdmission (b : Bay) (s : State) : State :=
  s.setGov { s.gov with held := s.gov.held.filter (fun h => h.bay ≠ b) }

/-- Sets the transfer outcome of a section, where the bay's frame has it. -/
def setOutcome (b : Bay) (id : Nat) (o : SectionOutcome) (s : State) : State :=
  match (s.area b).frame with
  | none => s
  | some f =>
    s.setArea b { s.area b with
      frame := some { f with sections := f.sections.modify id (fun c => { c with outcome := o }) } }

/-- Sets the state of the bay's map frame, where there is one (R114). -/
def setFrameState (b : Bay) (st : FrameState) (s : State) : State :=
  match (s.area b).frame with
  | none => s
  | some f => s.setArea b { s.area b with frame := some { f with state := st } }

/-- Sets the confirmed zones of a section (R120). -/
def setConfirmed (b : Bay) (id n : Nat) (s : State) : State :=
  s.setSeq b { s.seq b with confirmed := set12 (s.seq b).confirmed id n }

/-- Empties one sheet row (R103). -/
def clearRow (b : Bay) (row : Nat) (s : State) : State :=
  if h : row < 15 then s.setArea b { s.area b with rows := updAt (s.area b).rows ⟨row, h⟩ none } else s

/-- Writes one sheet row whole (R103). -/
def writeRow (b : Bay) (row : Nat) (r : Row) (s : State) : State :=
  if h : row < 15 then s.setArea b { s.area b with rows := updAt (s.area b).rows ⟨row, h⟩ (some r) } else s

/-- A sheet row, if filled. -/
def Area.row (a : Area) (i : Nat) : Option Row := if h : i < 15 then a.rows.get ⟨i, h⟩ else none

/-- The key record with a key ID. -/
def Stock.find (k : Stock) (id : Nat) : Option KeyRec := k.records.find? (fun r => r.keyId == id)

/-- Change the record with a key ID; load order is kept (R135). -/
def Stock.modify (k : Stock) (id : Nat) (f : KeyRec → KeyRec) : Stock :=
  { k with records := k.records.map (fun r => if r.keyId == id then f r else r) }

/-! ### State changes of a key record, each from the states R136 gives it and no other -/

/-- AVAILABLE becomes RESERVED, naming a bay (R143, R145). -/
def KeyRec.reserve (b : Bay) (r : KeyRec) : KeyRec :=
  match r.state with
  | .available => { r with state := .reserved b }
  | .reserved _ | .sending _ | .bound _ | .voided _ _ => r

/-- The bay a RESERVED or SENDING record names (R135). -/
def KeyState.bay? : KeyState → Option Bay
  | .available => none
  | .reserved b => some b
  | .sending b => some b
  | .bound _ => none
  | .voided _ _ => none

/-- The bays that claim a key: those named by a RESERVED or SENDING record, and those waiting for one (R143, R144). -/
def Stock.claimants (k : Stock) : List Bay :=
  k.records.filterMap (fun r => r.state.bay?) ++ k.waiting.map KeyWait.bay

/-- RESERVED returns to AVAILABLE (R154). -/
def KeyRec.release (r : KeyRec) : KeyRec :=
  match r.state with
  | .reserved _ => { r with state := .available }
  | .available | .sending _ | .bound _ | .voided _ _ => r

/-- RESERVED, naming the bay, becomes SENDING when chunk 0 is sent to the bay's set (R150). -/
def KeyRec.beginSending (b : Bay) (r : KeyRec) : KeyRec :=
  match r.state with
  | .reserved c => if c = b then { r with state := .sending b } else r
  | .available | .sending _ | .bound _ | .voided _ _ => r

/-- SENDING becomes BOUND to a set serial, the blob erased (R137, R151). -/
def KeyRec.bind (serial : List Byte) (r : KeyRec) : KeyRec :=
  match r.state with
  | .sending _ => { r with state := .bound serial, blob := none }
  | .available | .reserved _ | .bound _ | .voided _ _ => r

/-- RESERVED or SENDING becomes VOIDED, the blob erased (R137, R149, R152, R154). -/
def KeyRec.void (serial : Option (List Byte)) (reason : VoidReason) (r : KeyRec) : KeyRec :=
  match r.state with
  | .reserved _ => { r with state := .voided serial reason, blob := none }
  | .sending _ => { r with state := .voided serial reason, blob := none }
  | .available | .bound _ | .voided _ _ => r

/-- Blob memory used: the blob lengths of the records in AVAILABLE, RESERVED and SENDING (R137). -/
def blobUsed (rs : List KeyRec) : Nat :=
  (rs.map (fun r => match r.state with
    | .available => r.blobLen
    | .reserved _ => r.blobLen
    | .sending _ => r.blobLen
    | .bound _ => 0
    | .voided _ _ => 0)).sum

end Sys2Proof.Machine
end

