-- ==== Sys2Proof/Machine/Flags.lean ====
section
/-! DEFINITION. Every flag the part computes: the reading flags of a sheet row (R102), the notices-lost flag byte (R184),
the write mask of a burst (R189) and the flag counts of SHEET READ (R115). -/

namespace Sys2Proof.Machine

open Sys2Proof

/-- The centre zone of a grid: row (rows div 2), column (columns div 2) (R100). -/
def centreZone (cols rows : Nat) : Nat := rows / 2 * cols + cols / 2

/-- The flag of one zone by the first case that applies (R102). -/
def readFlag (mask : List Nat) (centre : Nat) (zone lum : Nat) (saturated : Bool) : ReadFlag :=
  if zone ∈ mask then .masked
  else if saturated then .saturated
  else if lum * 20 < centre then .dark
  else .valid

/-- The readings of a row from the luminance and saturated mark of every zone, the centre's luminance taken as handed
over (R102). -/
def flagRow (mask : List Nat) (cols rows : Nat) (zones : List (Nat × Bool)) : List Reading :=
  let centre := (zones.getD (centreZone cols rows) (0, false)).1
  zones.mapIdx (fun i z => { lum := z.1, flag := readFlag mask centre i z.1 z.2 })

/-- How many readings of a row have a flag (R115). -/
def countFlag (f : ReadFlag) (rs : List Reading) : Nat := rs.countP (fun r => r.flag = f)

/-- The flags byte of a notice: its least significant bit is the notices-lost flag (R184). -/
def noticeFlags (lost : Bool) : Byte := if lost then 1 else 0

/-- A yes or no field of one byte (R187). -/
def flagByte (b : Bool) : Byte := if b then 1 else 0

/-- One byte of a write mask: bit 7 - i is the masked mark of cell i of its eight (R189). -/
def maskByte (cells : List Cell) : Byte :=
  byteOf ((List.range 8).map (fun i =>
    if (cells.getD i { gain := 0, masked := false }).masked then 2 ^ (7 - i) else 0)).sum

/-- The eight bytes of a burst's write mask (R189). -/
def writeMask (cells : List Cell) : List Byte := (List.range 8).map (fun k => maskByte ((cells.drop (8 * k)).take 8))

end Sys2Proof.Machine
end

