-- ==== Sys2Proof/Machine/Frames.lean ====
section
/-! DEFINITION. The bytes of every message: check values (R185), the frames of the three kinds of line (R184, R189, R190),
the codes of R186, and the layouts of notices (R188) and of the requests to sets and probes (R189, R190). -/

namespace Sys2Proof.Machine

open Sys2Proof

/-! ## Check values (R185) -/

/-- One bit of the CRC-16, most significant bit first: generator x^16 + x^12 + x^5 + 1. -/
def crc16Bit (c : Crc16) : Crc16 := if c.msb then (c <<< 1) ^^^ 0x1021#16 else c <<< 1

/-- One byte of the CRC-16. -/
def crc16Byte (c : Crc16) (b : Byte) : Crc16 :=
  let c := c ^^^ (b.zeroExtend 16 <<< 8)
  crc16Bit (crc16Bit (crc16Bit (crc16Bit (crc16Bit (crc16Bit (crc16Bit (crc16Bit c)))))))

/-- The CRC-16 of a run of bytes from the initial value 65,535. -/
def crc16 (bs : List Byte) : Crc16 := bs.foldl crc16Byte 0xFFFF#16

/-- One bit of the CRC-32, reflected. -/
def crc32Bit (c : Crc32) : Crc32 := if c.getLsbD 0 then (c >>> 1) ^^^ 0xEDB88320#32 else c >>> 1

/-- One byte of the CRC-32, least significant bit first. -/
def crc32Byte (c : Crc32) (b : Byte) : Crc32 :=
  let c := c ^^^ b.zeroExtend 32
  crc32Bit (crc32Bit (crc32Bit (crc32Bit (crc32Bit (crc32Bit (crc32Bit (crc32Bit c)))))))

/-- The CRC-32 of a run of bytes: initial value all ones, final inversion. -/
def crc32 (bs : List Byte) : Crc32 := bs.foldl crc32Byte 0xFFFFFFFF#32 ^^^ 0xFFFFFFFF#32

/-! ## Frames -/

/-- A whole frame: start byte, length, payload (kind first) and CRC-16 over length and payload (R184, R189, R190). -/
def frameBytes (start : Byte) (payload : List Byte) : List Byte :=
  let covered := be16 (payload.length + 2) ++ payload
  start :: covered ++ be16 (crc16 covered).toNat

/-- The payload of a received set or probe frame whose start byte, length and CRC-16 are right (R44, R81, R189, R190). -/
def openFrame (start : Byte) (maxLen : Nat) (bytes : List Byte) : Option (List Byte) :=
  match bytes with
  | s :: l1 :: l2 :: rest =>
    let len := nat16 l1 l2
    let payload := rest.take (len - 2)
    if s = start ∧ 3 ≤ len ∧ len ≤ maxLen ∧ rest.length = len ∧
        rest.drop (len - 2) = be16 (crc16 (l1 :: l2 :: payload)).toNat then some payload
    else none
  | _ => none

/-- Start byte of a line-link frame (R184). -/
def lineStart : Byte := 165

/-- Start byte of a set service frame (R189). -/
def setStart : Byte := 90

/-- Start byte of a probe frame (R190). -/
def probeStart : Byte := 60

/-! ## Codes (R186) -/

def Status.code : Status → Nat
  | .ok => 0 | .badKind => 1 | .badField => 2 | .badState => 3 | .busy => 4 | .unknownProfile => 5 | .inUse => 6
  | .notFound => 7 | .duplicate => 8 | .stockFull => 9 | .integrity => 10 | .trapped => 11

def BayState.code : BayState → Nat
  | .parked => 0 | .empty => 1 | .attaching => 2 | .ready => 3 | .running => 4 | .tunnel => 5 | .faulted => 6
  | .stopped => 7

def Stage.code : Stage → Nat
  | .region => 0 | .measure => 1 | .solve => 2 | .transfer => 3 | .verify => 4 | .keys => 5 | .finish => 6

def Verdict.code : Verdict → Nat
  | .pass => 0 | .rejectPanel => 1 | .rejectRegion => 2 | .rejectSet => 3 | .rejectKey => 4 | .aborted => 5 | .lost => 6

def FaultCause.code : FaultCause → Nat
  | .setSilent => 1 | .serviceLapsed => 2 | .setRefused => 3 | .attachTimeout => 4 | .probeSilent => 5 | .probeDrift => 6
  | .captureExposure => 7 | .captureQuality => 8 | .driveOvertime => 9

/-- Whether RESUME accepts a cause (R21). -/
def FaultCause.resumable : FaultCause → Bool
  | .setSilent => false | .serviceLapsed => false | .setRefused => true | .attachTimeout => false | .probeSilent => true
  | .probeDrift => true | .captureExposure => true | .captureQuality => true | .driveOvertime => true

def PollLevel.code : PollLevel → Nat
  | .watch => 0 | .doze1 => 1 | .doze2 => 2 | .doze3 => 3

def HoldState.code : HoldState → Nat
  | .none => 0 | .entering => 1 | .held => 2 | .waking => 3

def KeyState.code : KeyState → Nat
  | .available => 0 | .reserved _ => 1 | .sending _ => 2 | .bound _ => 3 | .voided _ _ => 4

def VoidReason.code : VoidReason → Nat
  | .preSendCheck => 1 | .storedMismatch => 2 | .setRefused _ => 3 | .cleanup => 4

/-- The refusal code of a void reason, or 0 (R155). -/
def VoidReason.refusal : VoidReason → Byte
  | .preSendCheck => 0 | .storedMismatch => 0 | .setRefused c => c | .cleanup => 0

def Channel.code : Channel → Nat
  | .red => 0 | .green => 1 | .blue => 2 | .white => 3

def FrameState.code : FrameState → Nat
  | .solved => 1 | .writing => 2 | .written => 3 | .verified => 4

/-- The map frame state's code; EMPTY is 0. -/
def Area.frameCode (a : Area) : Nat :=
  match a.frame with
  | none => 0
  | some f => f.state.code

def SectionOutcome.code : SectionOutcome → Nat
  | .notSent => 0 | .written => 1 | .incomplete => 2 | .rewritten => 3

def SolveKind.code : SolveKind → Nat
  | .first => 0 | .resolve => 1

/-- Engine state's code; IDLE is 0. -/
def Engine.stateCode (e : Engine) : Nat :=
  match e.current with
  | none => 0
  | some c => match c.phase with
    | .referencing => 1
    | .exposing => 2
    | .sampling => 3

def WarmUp.code : WarmUp → Nat
  | .warming _ => 0 | .warm => 1 | .stopped => 2

def ReadFlag.code : ReadFlag → Nat
  | .valid => 0 | .saturated => 1 | .dark => 2 | .masked => 3

/-- A probe's zone status byte; other values are no status (R186, R190). -/
def ZoneStatus.ofByte (b : Byte) : Option ZoneStatus :=
  match b.toNat with
  | 0 => some .resolved
  | 1 => some .saturated
  | 2 => some .unresolved
  | _ => none

def ResetCause.code : ResetCause → Nat
  | .powerOn => 0 | .resetFull => 1

/-- The code of a rail in the grants of STATUS: R186 and R187 give none, and A as 0 and B as 1 is the model's choice (log entry
17). -/
def Rail.code : Rail → Nat
  | .railA => 0 | .railB => 1

/-- A one-byte code field whose item is absent holds 255 (R186). -/
def codeOr255 : Option Nat → Byte
  | none => 255
  | some n => byteOf n

/-! ## Fields (R187) -/

/-- Three characters. -/
def tripleBytes (t : Triple) : List Byte := [t.a, t.b, t.c]

/-- A set serial: length byte, 0 for absent, then the characters. -/
def serialBytes (s : List Byte) : List Byte := byteOf s.length :: s

/-- A list: count byte, then the items. -/
def listBytes {α : Type} (item : α → List Byte) (l : List α) : List Byte := byteOf l.length :: l.flatMap item

/-- An age or time left in milliseconds; absent or stopped is 4,294,967,295. A longer age has no stated form: the free
value of log entry 38. -/
def timeBytes : Option Nat → List Byte
  | none => be32 4294967295
  | some t => if t < 4294967295 then be32 t else be32 (Config.wideValue t)

/-- A load sequence; one that four bytes cannot hold has no stated form: the free value of log entry 38. -/
def seqBytes (n : Nat) : List Byte := if n < 4294967296 then be32 n else be32 (Config.wideValue n)

/-- The vendor name Nalbrio, with its length byte (R178, R188). -/
def vendorName : List Byte := [7, 78, 97, 108, 98, 114, 105, 111]

/-- The part name WK4240, with its length byte (R178, R188). -/
def partName : List Byte := [6, 87, 75, 52, 50, 52, 48]

/-- The device revision number (R178). -/
def revision : Byte := 1

/-! ## Notices (R186, R188) -/

def Notice.kind : Notice → Byte
  | .started _ => 128
  | .identified _ _ => 129
  | .stage _ _ _ => 130
  | .stockShort _ _ _ => 131
  | .keyBound _ _ _ _ _ => 132
  | .keyVoided _ _ _ _ _ _ => 133
  | .jobDone _ _ _ _ _ _ => 134
  | .fault _ _ _ _ _ => 135
  | .removed _ _ _ => 136
  | .linkError _ => 137

/-- The three bytes of a LINK ERROR body (R188). -/
def LinkError.body : LinkError → List Byte
  | .length n => 0 :: be16 n
  | .crc k t => [1, k, t]
  | .brk d => [2, flagByte d, 0]
  | .overrun k t => [3, k, t]

/-- The notice body after the flags byte (R188). -/
def Notice.body : Notice → List Byte
  | .started c => vendorName ++ partName ++ [revision, byteOf c.code]
  | .identified b i =>
    byteOf b.val :: serialBytes i.serial ++ [byteOf i.classId] ++ listBytes tripleBytes i.caps
  | .stage b st p => [byteOf b.val, byteOf st.code, byteOf p]
  | .stockShort b c r => byteOf b.val :: byteOf c :: tripleBytes r
  | .keyBound k c n b s => be32 k ++ [byteOf c] ++ be16 n ++ [byteOf b.val] ++ serialBytes s
  | .keyVoided k c n b s r =>
    be32 k ++ [byteOf c] ++ be16 n ++ [byteOf b.val] ++ serialBytes (s.getD []) ++ [byteOf r.code, r.refusal]
  | .jobDone b v s st p d =>
    [byteOf b.val, byteOf v.code] ++ serialBytes s ++ [byteOf st.code, byteOf p, byteOf d]
  | .fault b c o st d => [byteOf b.val, byteOf c.code, byteOf o.code, codeOr255 (st.map Stage.code), byteOf d]
  | .removed b s lost => byteOf b.val :: serialBytes s ++ [if lost then 6 else 255]
  | .linkError e => e.body

/-- The line-link frame of a placed message (R184): a notice carries tag 0. -/
def OutMsg.bytes : OutMsg → List Byte
  | .reply k t st body => frameBytes lineStart (byteOf k :: byteOf t :: byteOf st.code :: body)
  | .notice lost n => frameBytes lineStart (n.kind :: 0 :: noticeFlags lost :: n.body)

/-! ## Set service requests (R189) -/

/-- Kind value of a set service request (R189). -/
def ReqWhat.kind : ReqWhat → Byte
  | .hello => 1 | .identify => 2 | .keep => 3 | .hold => 4 | .wake => 5 | .show => 6 | .dark => 7 | .setRegion => 8
  | .storeKey _ _ => 9 | .keyEnd => 10 | .openSection _ => 11 | .burst _ _ _ => 12 | .closeSection _ => 13
  | .applyMap => 14 | .finish => 15 | .forwarded k => k

/-- The frame of a set service request (R189). -/
def PortReq.bytes (r : PortReq) : List Byte := frameBytes setStart (r.what.kind :: r.body)

/-- A request without a body. -/
def bareReq (w : ReqWhat) (o : Owner) : PortReq := { what := w, owner := o, body := [] }

/-- SHOW of a channel at a level code. -/
def showReq (ch : Channel) (level : Nat) : PortReq :=
  { what := .show, owner := .work, body := byteOf ch.code :: be16 level }

/-- The region payload of R166 in the layout of R189. -/
def regionPayload (p : ProfileFields) : List Byte :=
  tripleBytes p.region ++ listBytes (fun n => [byteOf n]) p.systems ++ listBytes tripleBytes p.languages ++
  [byteOf p.frameRate, byteOf p.drive] ++ be16 p.powerCap

/-- SET REGION, its payload built when the request is placed (R166). -/
def regionReq (p : ProfileFields) : PortReq := { what := .setRegion, owner := .work, body := regionPayload p }

/-- Chunks of a blob (R148). -/
def chunkCount (blobLen : Nat) : Nat := (blobLen + 255) / 256

/-- STORE KEY of chunk k: class, chunk index and the blob bytes from 256 k (R150). -/
def chunkReq (cls k count : Nat) (blob : List Byte) : PortReq :=
  { what := .storeKey k (decide (k + 1 = count)), owner := .work,
    body := byteOf cls :: byteOf k :: (blob.drop (256 * k)).take 256 }

/-- KEY END: class and chunk count (R150). -/
def keyEndReq (cls count : Nat) : PortReq := { what := .keyEnd, owner := .work, body := [byteOf cls, byteOf count] }

/-- OPEN SECTION. -/
def openReq (id : Nat) : PortReq := { what := .openSection id, owner := .work, body := [byteOf id] }

/-- CLOSE SECTION placed by cleanup or on a return from FAULTED (R26, R129). -/
def closeReq (id : Nat) : PortReq := { what := .closeSection id, owner := .cleanup, body := [byteOf id] }

/-- Bursts of a section of Z zones (R118). -/
def burstCount (zones : Nat) : Nat := (zones + 63) / 64

/-- A cell's gain in its two-byte form on the set port (R189). -/
def cellBytes (c : Cell) : List Byte := be16 c.gain

/-- BURST k of a section: up to 64 cells from zone 64 k, with write mask, and auto-close on the last (R118, R189). -/
def burstReq (id k : Nat) (cells : List Cell) : PortReq :=
  let last := decide (k + 1 = burstCount cells.length)
  let run := (cells.drop (64 * k)).take 64
  { what := .burst id k last, owner := .work,
    body := byteOf id :: be16 (64 * k) ++ [byteOf run.length, flagByte last] ++ writeMask run ++ run.flatMap cellBytes }

/-- The expected check value of a section: CRC-16 over the two-byte gains of its unmasked cells in zone order (R123). -/
def expectedCheck (cells : List Cell) : Crc16 := crc16 ((cells.filter (fun c => !c.masked)).flatMap cellBytes)

/-! ## Probe messages (R190) -/

/-- FRAME REQUEST. -/
def frameReqBytes (seqNo step cols rows : Nat) : List Byte :=
  frameBytes probeStart [1, byteOf seqNo, byteOf step, byteOf cols, byteOf rows]

/-- REFERENCE REQUEST. -/
def refReqBytes (seqNo : Nat) : List Byte := frameBytes probeStart [2, byteOf seqNo]

/-- The zone entries of a FRAME body; none when a status code is no status or bytes are left over. -/
def zoneEntries : List Byte → Option (List ZoneEntry)
  | [] => some []
  | a :: b :: c :: rest =>
    match ZoneStatus.ofByte c, zoneEntries rest with
    | some st, some zs => some ({ lum := nat16 a b, status := st } :: zs)
    | _, _ => none
  | _ => none

/-- The two deliveries of a probe (R81, R190). -/
inductive Delivery
  | frame (seqNo step peak satCount validCount : Nat) (zones : List ZoneEntry)
  | reference (seqNo measured nominal : Nat)
deriving DecidableEq, Repr

/-- The delivery a payload spells, kind byte first (R190). -/
def parseDelivery : List Byte → Option Delivery
  | k :: s :: rest =>
    if k = 129 then
      match rest with
      | st :: p1 :: p2 :: s1 :: s2 :: v1 :: v2 :: zs =>
        match zoneEntries zs with
        | some zones => some (.frame s.toNat st.toNat (nat16 p1 p2) (nat16 s1 s2) (nat16 v1 v2) zones)
        | none => none
      | _ => none
    else if k = 130 then
      match rest with
      | [m1, m2, n1, n2] => some (.reference s.toNat (nat16 m1 m2) (nat16 n1 n2))
      | _ => none
    else none
  | _ => none

/-! ## Set answers (R44, R45, R189) -/

/-- Characters a set serial may hold (R5). -/
def serialChar (b : Byte) : Bool := decide (32 ≤ b.toNat) && decide (b.toNat ≤ 126)

/-- Three-byte items of a list. -/
def triples : List Byte → List Triple
  | a :: b :: c :: rest => { a := a, b := b, c := c } :: triples rest
  | _ => []

/-- The identity an IDENTIFY answer's body spells, if it has the form of R45 and the limits of R5. A capability code is taken
whatever its three bytes are: for small letters R165 has it so; for bytes that are no letters R5, R187 and R189 leave it open, and
it is a DESIGN CHOICE (log entry 46). -/
def parseIdentity (body : List Byte) : Option Identity :=
  match body with
  | n :: rest =>
    let serial := rest.take n.toNat
    match rest.drop n.toNat with
    | cls :: cnt :: caps =>
      if 1 ≤ n.toNat ∧ n.toNat ≤ 24 ∧ serial.length = n.toNat ∧ serial.all serialChar = true ∧
          1 ≤ cnt.toNat ∧ cnt.toNat ≤ 8 ∧ caps.length = 3 * cnt.toNat then
        some { serial := serial, classId := cls.toNat, caps := triples caps }
      else none
    | _ => none
  | _ => none

/-- Whether an OK answer's body, after the result code, has the form its kind requires (R44, R45, R189). -/
def okBodyForm (w : ReqWhat) (body : List Byte) : Bool :=
  match w with
  | .identify => (parseIdentity body).isSome
  | .keyEnd => decide (body.length = 4)
  | .burst _ _ true => decide (body.length = 2)
  | .closeSection _ => decide (body.length = 2)
  | .hello | .keep | .hold | .wake | .show | .dark | .setRegion | .storeKey _ _ | .openSection _ | .burst _ _ false
  | .applyMap | .finish => body.isEmpty
  | .forwarded _ => true

/-- The end of a set service request as its owner is told it: answered OK with a body, refused with a code, or timed
out. -/
inductive ReqEnd
  | ok (body : List Byte)
  | refused (code : Byte)
  | timedOut
deriving DecidableEq, Repr

/-- The end an answer's bytes after its kind stand for (R43, R44): code 0 is OK; an OK body without its form is a refusal
with code 0, and so is an answer with no result code (log entry 21). -/
def judgeAnswer (w : ReqWhat) (answer : List Byte) : ReqEnd :=
  match answer with
  | [] => .refused 0
  | code :: body =>
    if code = 0 then (if okBodyForm w body then .ok body else .refused 0) else .refused code

end Sys2Proof.Machine
end

