-- ==== Sys2Proof/Machine/Operands.lean ====
section
/-! DEFINITION. The operand forms of line requests: how each request body of R187 is read, and the range checks of its
fields that the owning rules give (R2, R139, R160, R162). A body that does not have its kind's form reads as none. -/

namespace Sys2Proof.Machine

open Sys2Proof

/-! ## Reading fields -/

/-- A one-byte field. -/
def get8 : List Byte → Option (Nat × List Byte)
  | a :: rest => some (a.toNat, rest)
  | _ => none

/-- A two-byte field. -/
def get16 : List Byte → Option (Nat × List Byte)
  | a :: b :: rest => some (nat16 a b, rest)
  | _ => none

/-- A four-byte field. -/
def get32 : List Byte → Option (Nat × List Byte)
  | a :: b :: c :: d :: rest => some (nat32 a b c d, rest)
  | _ => none

/-- A run of n bytes. -/
def getRun (n : Nat) (bs : List Byte) : Option (List Byte × List Byte) :=
  if n ≤ bs.length then some (bs.take n, bs.drop n) else none

/-- Two-byte items. -/
def words16 : List Byte → List Nat
  | a :: b :: rest => nat16 a b :: words16 rest
  | _ => []

/-- A list of one-byte items. -/
def getList8 (bs : List Byte) : Option (List Nat × List Byte) := do
  let (n, r) ← get8 bs
  let (items, r) ← getRun n r
  pure (items.map BitVec.toNat, r)

/-- A list of two-byte items. -/
def getList16 (bs : List Byte) : Option (List Nat × List Byte) := do
  let (n, r) ← get8 bs
  let (items, r) ← getRun (2 * n) r
  pure (words16 items, r)

/-- A list of three-character items. -/
def getTriples (bs : List Byte) : Option (List Triple × List Byte) := do
  let (n, r) ← get8 bs
  let (items, r) ← getRun (3 * n) r
  pure (triples items, r)

/-- Three characters. -/
def getTriple : List Byte → Option (Triple × List Byte)
  | a :: b :: c :: rest => some ({ a := a, b := b, c := c }, rest)
  | _ => none

/-- A field that is present when its presence bit is set (R187). -/
def getIf {α : Type} (present : Bool) (read : List Byte → Option (α × List Byte)) (bs : List Byte) :
    Option (Option α × List Byte) :=
  if present then (do let (x, r) ← read bs; pure (some x, r)) else some (none, bs)

/-- The reading has used up the body. -/
def atEnd {α : Type} (x : α) (rest : List Byte) : Option α := if rest.isEmpty then some x else none

/-! ## Bodies (R187) -/

/-- A body of one one-byte field: a bay, slot, class id or reset scope. -/
def parse1 : List Byte → Option Nat
  | [a] => some a.toNat
  | _ => none

/-- CONFIGURE: parameter number and value. -/
def parseConfigure (bs : List Byte) : Option (Nat × Nat) := do
  let (n, r) ← get8 bs
  let (v, r) ← get32 r
  atEnd (n, v) r

/-- JOB START: bay, profile slot, presence byte with bit 7 clear (log entry 20), and the present parameters. -/
def parseJobStart (bs : List Byte) : Option (Nat × Nat × JobArgs) := do
  let (bay, r) ← get8 bs
  let (slot, r) ← get8 r
  let (p, r) ← get8 r
  let (levels, r) ← getIf (p.testBit 0) getList16 r
  let (samples, r) ← getIf (p.testBit 1) get8 r
  let (target, r) ← getIf (p.testBit 2) get16 r
  let (floorRatio, r) ← getIf (p.testBit 3) get16 r
  let (tolerance, r) ← getIf (p.testBit 4) get8 r
  let (iterLimit, r) ← getIf (p.testBit 5) get8 r
  let (mask, r) ← getIf (p.testBit 6) getList16 r
  if p.testBit 7 then none
  else atEnd (bay, slot, { levels := levels, samples := samples, target := target, floorRatio := floorRatio,
                           tolerance := tolerance, iterLimit := iterLimit, mask := mask }) r

/-- SHEET READ and MAP READ: bay, row or section, start zone, count. -/
def parseRead (bs : List Byte) : Option (Nat × Nat × Nat × Nat) := do
  let (bay, r) ← get8 bs
  let (row, r) ← get8 r
  let (start, r) ← get16 r
  let (count, r) ← get16 r
  atEnd (bay, row, start, count) r

/-- TUNNEL PASS: bay, then the carried request, which may be empty (R58). -/
def parsePass : List Byte → Option (Nat × List Byte)
  | b :: carried => some (b.toNat, carried)
  | _ => none

/-- KEY LOAD; the blob is every byte after its check value, and its length is compared by R139. -/
def parseKeyLoad (bs : List Byte) : Option KeyFields := do
  let (id, r) ← get32 bs
  let (cls, r) ← get8 r
  let (batch, r) ← get16 r
  let (regions, r) ← getTriples r
  let (len, r) ← get16 r
  let (check, r) ← get32 r
  pure { keyId := id, cls := cls, regions := regions, batch := batch, blobLen := len, check := BitVec.ofNat 32 check,
         blob := r }

/-- What a KEY WITHDRAW, KEY PURGE or STOCK QUERY body asks for, by its mode byte. -/
inductive StockAsk
  | byId (id : Nat)
  | byBatch (batch : Nat)
  | everything
  | run (start count : Nat)
deriving DecidableEq, Repr

/-- KEY WITHDRAW: mode 0 with a key ID, mode 1 with a batch number. -/
def parseWithdraw (bs : List Byte) : Option StockAsk := do
  let (mode, r) ← get8 bs
  match mode with
  | 0 => do let (id, r) ← get32 r; atEnd (.byId id) r
  | 1 => do let (n, r) ← get16 r; atEnd (.byBatch n) r
  | _ => none

/-- KEY PURGE: mode 0 for all, mode 1 with a batch number. -/
def parsePurge (bs : List Byte) : Option StockAsk := do
  let (mode, r) ← get8 bs
  match mode with
  | 0 => atEnd .everything r
  | 1 => do let (n, r) ← get16 r; atEnd (.byBatch n) r
  | _ => none

/-- STOCK QUERY: mode 0 counts, mode 1 run with start and count (one byte, log entry 17), mode 2 record with key ID. -/
def parseQuery (bs : List Byte) : Option StockAsk := do
  let (mode, r) ← get8 bs
  match mode with
  | 0 => atEnd .everything r
  | 1 => do
    let (start, r) ← get32 r
    let (count, r) ← get8 r
    atEnd (.run start count) r
  | 2 => do let (id, r) ← get32 r; atEnd (.byId id) r
  | _ => none

/-- PROFILE LOAD: slot, then the fields of R157 in order. R187 gives no form for a broadcast system code: one byte each, as in the
SET REGION payload of R189, is the model's choice (log entry 17). -/
def parseProfile (bs : List Byte) : Option (Nat × ProfileFields) := do
  let (slot, r) ← get8 bs
  let (region, r) ← getTriple r
  let (systems, r) ← getList8 r
  let (languages, r) ← getTriples r
  let (rate, r) ← get8 r
  let (drive, r) ← get8 r
  let (cap, r) ← get16 r
  let (classes, r) ← getList8 r
  atEnd (slot, { region := region, systems := systems, languages := languages, frameRate := rate, drive := drive,
                 powerCap := cap, keyClasses := classes }) r

/-- CLASS LOAD: class id, then the fields of R158 in order. R187 gives no form for zone columns and zone rows: one byte each is the
model's choice (log entry 17). -/
def parseClass (bs : List Byte) : Option (Nat × ClassFields) := do
  let (id, r) ← get8 bs
  let (cols, r) ← get8 r
  let (rows, r) ← get8 r
  let (settle, r) ← get16 r
  let (threshold, r) ← get16 r
  let (step, r) ← get8 r
  let (pairs, r) ← get16 r
  atEnd (id, { cols := cols, rows := rows, settle := settle, threshold := threshold, initStep := step,
               pairs := BitVec.ofNat 16 pairs }) r

/-! ## Job parameters (R2) -/

/-- Strictly ascending. -/
def ascending : List Nat → Bool
  | [] => true
  | [_] => true
  | a :: b :: rest => decide (a < b) && ascending (b :: rest)

/-- The parameters with defaults filled in (R2). -/
def fillArgs (a : JobArgs) : JobParams :=
  { levels := a.levels.getD [256, 512, 768, 1023], samples := a.samples.getD 4, target := a.target.getD 850,
    floorRatio := a.floorRatio.getD 700, tolerance := a.tolerance.getD 2, iterLimit := a.iterLimit.getD 2,
    mask := a.mask.getD [] }

/-- Every parameter is in its range, zone indices below the zone count (R2). -/
def JobParams.inRange (p : JobParams) (zoneCount : Nat) : Bool :=
  decide (1 ≤ p.levels.length ∧ p.levels.length ≤ 4) && p.levels.all (fun l => decide (64 ≤ l ∧ l ≤ 1023)) &&
  ascending p.levels &&
  decide (1 ≤ p.samples ∧ p.samples ≤ 8) && decide (500 ≤ p.target ∧ p.target ≤ 1000) &&
  decide (300 ≤ p.floorRatio ∧ p.floorRatio ≤ 1000) && decide (p.tolerance ≤ 16) && decide (p.iterLimit ≤ 3) &&
  decide (p.mask.length ≤ 32) && decide p.mask.Nodup && p.mask.all (fun z => decide (z < zoneCount))

/-- The zone count the mask is judged by: that of the class named by the bay's record, or 576 (R2). -/
def maskZones (c : Option ClassFields) : Nat :=
  match c with
  | none => 576
  | some c => c.cols * c.rows

/-! ## Table and key fields (R139, R160, R162) -/

/-- A capital letter A to Z. -/
def capital (b : Byte) : Bool := decide (65 ≤ b.toNat ∧ b.toNat ≤ 90)

/-- A small letter a to z. -/
def small (b : Byte) : Bool := decide (97 ≤ b.toNat ∧ b.toNat ≤ 122)

/-- A region code: three capital letters (R157). -/
def isRegion (t : Triple) : Bool := capital t.a && capital t.b && capital t.c

/-- A language tag: two or three small letters, a missing third being 0 (R157, R187). -/
def isTag (t : Triple) : Bool := small t.a && small t.b && (small t.c || decide (t.c = 0))

/-- The place of a frame rate in the allowed-pairs matrix (R187). -/
def rateIndex (rate : Nat) : Option Nat :=
  if rate = 50 then some 0 else if rate = 60 then some 1 else if rate = 100 then some 2
  else if rate = 120 then some 3 else none

/-- The matrix allows a frame rate with a drive level: bit 3 r + d (R187). -/
def pairAllowed (m : BitVec 16) (rate drive : Nat) : Bool :=
  match rateIndex rate with
  | none => false
  | some r => decide (drive < 3) && m.getLsbD (3 * r + drive)

/-- Field check of PROFILE LOAD (R160). -/
def profileInRange (p : ProfileFields) : Bool :=
  isRegion p.region &&
  decide (1 ≤ p.systems.length ∧ p.systems.length ≤ 4) && p.systems.all (fun n => decide (1 ≤ n ∧ n ≤ 15)) &&
  decide p.systems.Nodup &&
  decide (1 ≤ p.languages.length ∧ p.languages.length ≤ 8) && p.languages.all isTag && decide p.languages.Nodup &&
  (rateIndex p.frameRate).isSome && decide (p.drive ≤ 2) && decide (20 ≤ p.powerCap ∧ p.powerCap ≤ 600) &&
  decide (p.keyClasses.length ≤ 4) && p.keyClasses.all (fun n => decide (1 ≤ n ∧ n ≤ 8)) && decide p.keyClasses.Nodup

/-- Field check of CLASS LOAD (R162): at least one of the twelve pairs is allowed, bits 12 to 15 are 0 (log entry 20). -/
def classInRange (c : ClassFields) : Bool :=
  decide (4 ≤ c.cols ∧ c.cols ≤ 32) && decide (3 ≤ c.rows ∧ c.rows ≤ 18) &&
  decide (20 ≤ c.settle ∧ c.settle ≤ 2000) && decide (256 ≤ c.threshold ∧ c.threshold ≤ 1023) &&
  decide (1 ≤ c.initStep ∧ c.initStep ≤ 12) && decide (1 ≤ c.pairs.toNat ∧ c.pairs.toNat < 4096)

/-- Field check of KEY LOAD (R139, check 1). -/
def keyInRange (k : KeyFields) : Bool :=
  decide (k.keyId ≠ 0) && decide (1 ≤ k.cls ∧ k.cls ≤ 8) && decide (16 ≤ k.blobLen ∧ k.blobLen ≤ 960) &&
  decide (k.blob.length = k.blobLen) && decide (k.regions.length ≤ 4) && k.regions.all isRegion &&
  decide k.regions.Nodup

end Sys2Proof.Machine
end

