-- ==== Sys2Proof/Machine/Port.lean ====
section
/-! DEFINITION. The set port: placing, choosing and sending requests, link-alive, the tunnel pass (R42 to R61). -/

namespace Sys2Proof.Machine

open Sys2Proof

/-! ## Requests on the port -/

/-- Answer timeout of a kind in ms (R45); a kind the part does not know has 250. -/
def answerTimeoutMs (kind : Byte) : Nat :=
  match kind.toNat with
  | 5 => 1000
  | 9 => 500
  | 11 => 2000
  | 15 => 5000
  | _ => 250

/-- Whether a request is the one kind. -/
def PortReq.isHello (r : PortReq) : Bool := decide (r.what = .hello)
def PortReq.isWake (r : PortReq) : Bool := decide (r.what = .wake)
def PortReq.isHold (r : PortReq) : Bool := decide (r.what = .hold)
def PortReq.isShow (r : PortReq) : Bool := decide (r.what = .show)
def PortReq.isDark (r : PortReq) : Bool := decide (r.what = .dark)

/-- A CLOSE SECTION. -/
def PortReq.isClose (r : PortReq) : Bool :=
  match r.what with
  | .closeSection _ => true
  | _ => false

/-- An OPEN SECTION. -/
def PortReq.isOpen (r : PortReq) : Bool :=
  match r.what with
  | .openSection _ => true
  | _ => false

/-- A forwarded tunnel request. -/
def PortReq.isForwarded (r : PortReq) : Bool :=
  match r.what with
  | .forwarded _ => true
  | _ => false

/-- A request of the key transfer: STORE KEY or KEY END. -/
def PortReq.isKeyTransfer (r : PortReq) : Bool :=
  match r.what with
  | .storeKey _ _ => true
  | .keyEnd => true
  | _ => false

/-- The outstanding request satisfies a test. -/
def Port.outIs (p : Port) (t : PortReq → Bool) : Bool :=
  match p.outstanding with
  | none => false
  | some o => t o.req

/-- A request that satisfies a test is queued or outstanding. -/
def Port.has (p : Port) (t : PortReq → Bool) : Bool := p.queue.any t || p.outIs t

/-- Keep-alive runs: link-alive with hold state NONE or ENTERING (R49, R50). -/
def Port.keepAliveRuns (p : Port) : Bool := p.linkAlive && (decide (p.hold = .none) || decide (p.hold = .entering))

/-- The KEEP of keep-alive (R49). -/
def keepReq : PortReq := bareReq .keep .work

/-- The first queued request that satisfies a test, with the queue without it. -/
def takeFirst (t : PortReq → Bool) (q : List PortReq) : Option (PortReq × List PortReq) :=
  match q with
  | [] => none
  | r :: rest => if t r then some (r, rest) else (takeFirst t rest).map (fun x => (x.1, r :: x.2))

/-- The request a port sends next and the queue that remains (R53); none while a request is outstanding, and only HELLO
while link-alive is false (R43). -/
def Port.next (p : Port) : Option (PortReq × List PortReq) :=
  if p.outstanding.isSome then none
  else if !p.linkAlive then takeFirst PortReq.isHello p.queue
  else match p.hold with
    | .held => takeFirst PortReq.isWake p.queue
    | .entering => none
    | .waking => none
    | .none =>
      if p.keepDue && p.openSection.isNone then some (keepReq, p.queue)
      else match p.queue with
        | [] => none
        | r :: rest => some (r, rest)

/-! ## Sending -/

/-- What sending a request changes on its own port. -/
def Port.sending (p : Port) (now : Nat) (r : PortReq) : Port :=
  match r.what with
  | .keep => { p with keepDue := false, lapseClock := .start now }
  | .hold => if p.hold = .none then { p with hold := .entering } else p
  | .wake => if p.hold = .held then { p with hold := .waking } else p
  | .openSection id => { p with openSection := some id, lapseClock := p.lapseClock.pause now }
  | .finish => { p with lapseClock := p.lapseClock.pause now }
  | .forwarded _ =>
    match p.tunnel with
    | none => p
    | some t =>
      match t.pass with
      | .queued tag => { p with tunnel := some { t with fwd := bump t.fwd, pass := .sent tag } }
      | _ => p
  | .hello | .identify | .show | .dark | .setRegion | .storeKey _ _ | .keyEnd | .burst _ _ _ | .closeSection _
  | .applyMap => p

/-- A forwarded request is a DARK by its kind (R186). -/
def darkKind : Byte := 7

/-- The sending of a DARK releases its bay's admission (R69). The DARK of a revocation, of a cleanup or of R129 ends a field whose
admission is gone already; an admission granted while it waited stays, for the SHOW it is for is still to come (R58, R69, R71;
DEDUCED, log entry 11). -/
def PortReq.endsAdmission (r : PortReq) : Bool :=
  decide (r.what.kind = darkKind) && !(decide (r.owner = .restart) || decide (r.owner = .cleanup))

/-- What sending a request changes beside its port: SHOW sets the showing flag (R12), a DARK releases the admission under which its
field was shown (R69, log entry 11), OPEN SECTION zeroes the confirmed zones and begins the frame's writing (R114, R120),
chunk 0 makes its record SENDING (R150). -/
def sendEffect (b : Bay) (r : PortReq) (s : State) : State :=
  match r.what with
  | .show => s.setBay b { s.bay b with showing := true }
  | .dark | .forwarded _ => if r.endsAdmission then releaseAdmission b s else s
  | .openSection id =>
    let s := setConfirmed b id 0 s
    match (s.area b).frame with
    | none => s
    | some f => if f.state = .solved then setFrameState b .writing s else s
  | .storeKey 0 _ =>
    match (s.xfer b).keyId with
    | none => s
    | some id => s.setStock (s.stock.modify id (KeyRec.beginSending b))
  | .storeKey (_ + 1) _ | .hello | .identify | .keep | .hold | .wake | .setRegion | .keyEnd | .burst _ _ _
  | .closeSection _ | .applyMap | .finish => s

/-- Puts a frame on a set port's line and counts the request (R29, R189). -/
def driveSet (b : Bay) (bytes : List Byte) (s : State) : State :=
  countRequest b (s.setOut { s.out with sptx := updAt s.out.sptx b bytes })

/-- Sends a request: it becomes outstanding, its timeout starting when the last byte of its frame has left (R43). -/
def send (b : Bay) (r : PortReq) (s : State) : State :=
  let bytes := r.bytes
  let deadline := s.now + bytes.length * Config.setByteTicks + ms (answerTimeoutMs r.what.kind)
  let p := (s.port b).sending s.now r
  sendEffect b r (driveSet b bytes (s.setPort b { p with outstanding := some { req := r, deadline := deadline } }))

/-- A free port chooses its next request and sends it (R53). -/
def pump (b : Bay) (s : State) : State :=
  match (s.port b).next with
  | none => s
  | some (r, q) => send b r (s.setPort b { s.port b with queue := q })

/-- Placing a request: it joins the queue, and a free port chooses (R43, log entry 7). -/
def place (b : Bay) (r : PortReq) (s : State) : State :=
  pump b (s.setPort b { s.port b with queue := (s.port b).queue ++ [r] })

/-- Withdraws unsent the queued requests that satisfy a test. -/
def withdraw (b : Bay) (t : PortReq → Bool) (s : State) : State :=
  s.setPort b { s.port b with queue := (s.port b).queue.filter (fun r => !t r) }

/-! ## Tunnel passes -/

/-- Request kind of TUNNEL PASS (R186). -/
def passKind : Nat := 17

/-- Sets the pass state of a tunnel record. -/
def setPass (b : Bay) (ps : PassState) (s : State) : State :=
  match (s.port b).tunnel with
  | none => s
  | some t => s.setPort b { s.port b with tunnel := some { t with pass := ps } }

/-- A pass in state QUEUED is withdrawn unsent and replied BAD_STATE without an answer (R61). -/
def endQueuedPass (b : Bay) (s : State) : State :=
  match (s.port b).tunnel with
  | none => s
  | some t =>
    match t.pass with
    | .queued tag => placeReply passKind tag .badState [] (setPass b .none (withdraw b PortReq.isForwarded s))
    | _ => s

/-- A pass in state QUEUED or SENT is ended and replied BAD_STATE without an answer (R61). -/
def endPass (b : Bay) (s : State) : State :=
  match (s.port b).tunnel with
  | none => s
  | some t =>
    match t.pass with
    | .none => s
    | .queued tag => placeReply passKind tag .badState [] (setPass b .none s)
    | .sent tag => placeReply passKind tag .badState [] (setPass b .none s)

/-- The reply to a pass in state SENT, with OK and the answer or BAD_STATE and none (R59). -/
def replyPass (b : Bay) (st : Status) (body : List Byte) (s : State) : State :=
  match (s.port b).tunnel with
  | none => s
  | some t =>
    match t.pass with
    | .sent tag => placeReply passKind tag st body (setPass b .none s)
    | _ => s

/-! ## Link-alive -/

/-- Link-alive becomes true at a HELLO answered OK (R48). Where it was true already, after a RELEASE, a KEEP that fell due behind
the HELLO stays due until it is sent (R49). -/
def linkUp (b : Bay) (s : State) : State :=
  s.setPort b { s.port b with
    linkAlive := true, keepClock := .start s.now, keepTaken := none, lapseClock := .start s.now, hold := .none,
    openSection := none }

/-- The section of the open-section record is marked closed and PARTIAL in the map frame (R26). -/
def markOpenPartial (b : Bay) (s : State) : State :=
  match (s.port b).openSection with
  | none => s
  | some id => setOutcome b id .incomplete s

/-- HELLO outstanding stays yes only while a HELLO is still awaited on the port: one withdrawn or discarded from the queue is
awaited no longer (R30). -/
def settleHello (b : Bay) (s : State) : State :=
  s.setPoller b { s.poller b with helloOut := (s.poller b).helloOut && (s.port b).outIs PortReq.isHello }

/-- The port of a link that is down: clocks stopped, the queue emptied; an outstanding request stays (R48). A KEEP that was due is
due no longer, the model's choice: R48 does not name it (log entry 43). -/
def Port.down (p : Port) : Port :=
  { p with linkAlive := false, keepClock := .stopped, keepDue := false, keepTaken := none, lapseClock := .stopped, queue := [],
           hold := .none, openSection := none, wakePending := false }

/-- Link-alive becomes false (R48): a queued pass is replied, the open section is marked PARTIAL, and the port goes down; a
HELLO discarded with the queue is awaited no longer (R30). -/
def linkDown (b : Bay) (s : State) : State :=
  let s := markOpenPartial b (endQueuedPass b s)
  settleHello b (s.setPort b (s.port b).down)

/-- The open-section record becomes none: the lapse clock resumes and a CLOSE still queued is withdrawn unsent (R50, R54,
R128). No lapse is taken here at a deadline shortened during the pause (R52, R53): DESIGN CHOICE, log entry 45. -/
def closeRecord (b : Bay) (s : State) : State :=
  s.setPort b { s.port b with
    openSection := none, lapseClock := (s.port b).lapseClock.resume s.now,
    queue := (s.port b).queue.filter (fun r => !r.isClose) }

/-- A KEEP falls due at what the keep-alive clock reads (R49). -/
def makeKeepDue (b : Bay) (s : State) : State :=
  s.setPort b { s.port b with keepDue := true, keepTaken := (s.port b).keepClock.value s.now }

/-- A KEEP is made due without its clock having reached the interval (R23). -/
def keepDueAgain (b : Bay) (s : State) : State := s.setPort b { s.port b with keepDue := true }

/-- A request that has lost its owner's interest (R26): its end moves no job. Cleanup requests, KEEP and forwarded requests stay
as they are. -/
def Outstanding.orphaned (o : Outstanding) : Outstanding :=
  if o.req.owner = .work ∧ ¬ o.req.what = .keep ∧ ¬ o.req.isForwarded = true then
    { o with req := { o.req with owner := .orphan } }
  else o

/-- The outstanding request loses its owner's interest (R26). -/
def orphanOutstanding (b : Bay) (s : State) : State :=
  s.setPort b { s.port b with outstanding := (s.port b).outstanding.map Outstanding.orphaned }

end Sys2Proof.Machine
end

