-- ==== Sys2Proof/Machine/Governor.lean ====
section
/-! DEFINITION. The drive budget governor (R62 to R75), and the SHOW a bay sends when it is told of a grant. -/

namespace Sys2Proof.Machine

open Sys2Proof

/-! ## Patches (R12, R16, R63) -/

/-- Channel number of a patch or section: R = 0, G = 1, B = 2. -/
def channelOf (n : Nat) : Channel :=
  match n % 3 with
  | 0 => .red
  | 1 => .green
  | _ => .blue

/-- The patch at a job's cursor: channel, level code and sheet row. In VERIFY it is the cursor's channel at the top level
and the channel's verify row (R16); otherwise patch 3 i + c (R12). -/
structure Patch where
  channel : Channel
  level : Nat
  row : Nat
  isVerify : Bool
deriving DecidableEq, Repr

def patchAt (j : Job) : Patch :=
  if j.stage = .verify then
    { channel := channelOf j.cursor, level := j.params.levels.getLastD 0, row := 12 + j.cursor, isVerify := true }
  else
    { channel := channelOf j.cursor, level := j.params.levels.getD (j.cursor / 3) 0, row := j.cursor, isVerify := false }

/-- A patch needs an admission: at or above the class's threshold, at 1023, or a verify patch (R63). -/
def highDrive (threshold : Nat) (p : Patch) : Bool :=
  decide (threshold ≤ p.level) || decide (p.level = 1023) || p.isVerify

/-- The bay sends SHOW with the patch's channel and level code (R12, step 2). -/
def placeShow (b : Bay) (s : State) : State :=
  match (s.bay b).job with
  | none => s
  | some j => place b (showReq (patchAt j).channel (patchAt j).level) s

/-- A DARK placed by a revocation is queued or outstanding (R71). -/
def restartDark (r : PortReq) : Bool := r.isDark && decide (r.owner = .restart)

/-- A bay told of its grant proceeds from step 2 of R12; after a revocation SHOW waits for the answer to the DARK (R71). A
bay that has left RUNNING sends no SHOW (R68). -/
def tellGrant (b : Bay) (s : State) : State :=
  if (s.bay b).state = .running then
    if (s.port b).has restartDark then s.setBay b { s.bay b with showPending := true }
    else placeShow b s
  else s

/-! ## Grant conditions (R65, R66) -/

/-- The last grant on a rail. -/
def Governor.last (g : Governor) : Rail → Option Nat
  | .railA => g.lastA
  | .railB => g.lastB

/-- The other rail. -/
def otherRail : Rail → Rail
  | .railA => .railB
  | .railB => .railA

/-- A last grant, when present, is at least a spacing before t. -/
def clear (t spacing : Nat) : Option Nat → Bool
  | none => true
  | some l => decide (l + spacing ≤ t)

/-- The three conditions of R65 for a bay at instant t, with the parameters in force. -/
def grantAllowed (g : Governor) (p : Params) (b : Bay) (t : Nat) : Bool :=
  decide ((g.history.filter (fun x => decide (t < x.time + ms p.grantWindow))).length < 4) &&
  clear t (ms p.sameRail) (g.last (railOf b)) && clear t (ms p.crossRail) (g.last (otherRail (railOf b)))

/-- A last grant plus its spacing, when present. -/
def after (spacing : Nat) : Option Nat → Nat
  | none => 0
  | some l => l + spacing

/-- The fourth most recent grant plus the window, when there are four (R66). -/
def windowOpens (g : Governor) (p : Params) : Nat :=
  match g.history.drop 3 with
  | [] => 0
  | x :: _ => x.time + ms p.grantWindow

/-- The earliest instant at which a bay as head can be granted (R66). -/
def earliestGrant (g : Governor) (p : Params) (b : Bay) (now : Nat) : Nat :=
  max (max now (windowOpens g p))
    (max (after (ms p.sameRail) (g.last (railOf b))) (after (ms p.crossRail) (g.last (otherRail (railOf b)))))

/-! ## Granting (R67) -/

/-- Steps 1 to 3 of a grant to a bay at the head: it leaves the queue, joins the held set with its overtime timer, and is
recorded in the history and as the last grant on its rail (R67). -/
def Governor.grant (g : Governor) (p : Params) (b : Bay) (now : Nat) : Governor :=
  { queue := g.queue.drop 1, headTimer := none,
    held := g.held ++ [{ bay := b, granted := now, expires := now + ms p.holdLimit }],
    history := { time := now, bay := b } :: g.history,
    lastA := if railOf b = .railA then some now else g.lastA,
    lastB := if railOf b = .railB then some now else g.lastB }

/-- A grant to a bay at the head of the queue, and the bay is told of it (R67, steps 1 to 4). -/
def grantBay (b : Bay) (s : State) : State :=
  tellGrant b (s.setGov (s.gov.grant s.link.params b s.now))

/-- The head is granted at once if its earliest instant has come, and the next head with it; otherwise the head timer is
armed; with an empty queue it stops (R66, R67). The fuel is the length of the queue. -/
def settleHead : Nat → State → State
  | 0, s => s.setGov { s.gov with headTimer := none }
  | fuel + 1, s =>
    match s.gov.queue with
    | [] => s.setGov { s.gov with headTimer := none }
    | w :: _ =>
      let t := earliestGrant s.gov s.link.params w.bay s.now
      if t ≤ s.now then settleHead fuel (grantBay w.bay s)
      else s.setGov { s.gov with headTimer := some t }

/-- The head has changed (R66). -/
def headChanged (s : State) : State := settleHead (s.gov.queue.length + 1) s

/-- The bays that wait for an admission or hold one (R62). -/
def Governor.claimants (g : Governor) : List Bay := g.queue.map Waiting.bay ++ g.held.map Held.bay

/-- A request joins the tail of the queue, and an empty queue makes it the head (R64). -/
def joinAdmission (b : Bay) (s : State) : State :=
  let wasEmpty := s.gov.queue.isEmpty
  let s := s.setGov { s.gov with queue := s.gov.queue ++ [{ bay := b, joined := s.now }] }
  if wasEmpty then headChanged s else s

/-- A bay requests an admission, in which it neither waits for one nor holds one (R62, R64). -/
def requestAdmission (b : Bay) (s : State) : State := if b ∈ s.gov.claimants then s else joinAdmission b s

/-- A bay's waiting request is withdrawn; the withdrawal of the head makes the next request the head (R68). -/
def withdrawRequest (b : Bay) (s : State) : State :=
  match s.gov.queue with
  | [] => s
  | w :: rest =>
    if w.bay = b then headChanged (s.setGov { s.gov with queue := rest.filter (fun x => x.bay ≠ b) })
    else s.setGov { s.gov with queue := w :: rest.filter (fun x => x.bay ≠ b) }

/-- Step 1 of R12: a high-drive patch asks for an admission, every other patch is shown. The threshold is read here
(R63); a bay whose class is not loaded, which no open job past REGION has (R168), is taken as high-drive (log entry 27). -/
def startPatch (b : Bay) (s : State) : State :=
  match (s.bay b).job with
  | none => s
  | some j =>
    match s.bayClass b with
    | none => requestAdmission b s
    | some c => if highDrive c.threshold (patchAt j) then requestAdmission b s else placeShow b s

end Sys2Proof.Machine
end

