-- ==== Sys2Proof/Machine/Engine.lean ====
section
/-! DEFINITION. The capture engine and its probe records (R76 to R99): requests to probes, the choice of an entry, the
exposure loop, sampling, completion, failure and withdrawal. -/

namespace Sys2Proof.Machine

open Sys2Proof

/-! ## Requests to a probe (R80) -/

/-- Exposure time at a step, 0.25 ms × 2^(step - 1), in ticks (R76). -/
def exposureTicks (step : Nat) : Nat := Config.quarterMs * 2 ^ (step - 1)

/-- The next request sequence, wrapping from 255 to 0 (R80). -/
def nextSeqNo (n : Nat) : Nat := (n + 1) % 256

/-- Puts a frame on a probe port's line. -/
def driveProbe (b : Bay) (bytes : List Byte) (s : State) : State :=
  s.setOut { s.out with pptx := updAt s.out.pptx b bytes }

/-- Sends a FRAME REQUEST at the probe's step with a grid; its timeout is the exposure time plus 200 ms from the last byte
sent (R80). -/
def sendFrameReq (b : Bay) (cols rows : Nat) (s : State) : State :=
  let p := s.probe b
  let n := nextSeqNo p.seqNo
  let bytes := frameReqBytes n p.step cols rows
  let deadline := s.now + bytes.length * Config.probeByteTicks + exposureTicks p.step + ms 200
  driveProbe b bytes (s.setProbe b { p with
    seqNo := n,
    outstanding := some { isRef := false, seqNo := n, step := p.step, cols := cols, rows := rows, deadline := deadline } })

/-- Sends a REFERENCE REQUEST, exposed for 16 ms (R80). -/
def sendRefReq (b : Bay) (s : State) : State :=
  let p := s.probe b
  let n := nextSeqNo p.seqNo
  let bytes := refReqBytes n
  let deadline := s.now + bytes.length * Config.probeByteTicks + ms 16 + ms 200
  driveProbe b bytes (s.setProbe b { p with
    seqNo := n, outstanding := some { isRef := true, seqNo := n, step := 0, cols := 0, rows := 0, deadline := deadline } })

/-- Sets or clears the current capture record. -/
def setCurrent (c : Option Current) (s : State) : State := s.setEngine { s.engine with current := c }

/-! ## Taking an entry (R83, R85, R87) -/

/-- An entry is eligible when its probe is WARM (R83). -/
def eligible (e : Engine) (x : Entry) : Bool := decide ((e.probes.get x.bay).warm = .warm)

/-- A reference is due: count at or above the interval, or fault flag set (R79). -/
def refDue (p : Probe) (interval : Nat) : Bool := decide (interval ≤ p.count) || p.fault

/-- The exposure step a capture begins with: seeded from the class on the first capture after IDENTIFIED (R78). -/
def seedProbe (p : Probe) (c : Option ClassFields) : Probe :=
  if p.seeded then p
  else match c with
    | none => p
    | some c => { p with step := c.initStep, seeded := true }

/-- The exposure loop begins for an entry: seeding, then its first frame (R87). -/
def beginExposing (e : Entry) (s : State) : State :=
  let s := s.setProbe e.bay (seedProbe (s.probe e.bay) (s.bayClass e.bay))
  sendFrameReq e.bay e.cols e.rows
    (setCurrent (some { phase := .exposing, entry := e, exposures := 1, accepted := [], discarded := 0 }) s)

/-- The engine takes an entry: a reference first when one is due (R85). -/
def takeEntry (e : Entry) (s : State) : State :=
  if refDue (s.probe e.bay) s.link.params.refInterval then
    sendRefReq e.bay
      (setCurrent (some { phase := .referencing, entry := e, exposures := 0, accepted := [], discarded := 0 }) s)
  else beginExposing e s

/-- An IDLE engine takes the oldest eligible entry (R83). -/
def chooseEntry (s : State) : State :=
  match s.engine.current with
  | some _ => s
  | none =>
    match s.engine.queue.find? (eligible s.engine) with
    | none => s
    | some e => takeEntry e s

/-- The entry number after the last one given, wrapping from 65,535 to 1 (R82). -/
def nextEntryNumber (n : Nat) : Nat := if n = 65535 then 1 else n + 1

/-- An entry joins the tail of the capture queue with the number given to it (R82). -/
def enqueueEntry (e : Entry) (s : State) : State :=
  s.setEngine { s.engine with queue := s.engine.queue ++ [e], lastNumber := e.number }

/-- The number a bay holds of its own entry (R82). -/
def holdEntry (b : Bay) (n : Option Nat) (s : State) : State := s.setBay b { s.bay b with entry := n }

/-- A bay places a capture queue entry for the patch at its cursor (R12, step 4; R82), with the grid of its class; the bay
keeps its number. It places one only when it has none in the queue. -/
def placeEntry (b : Bay) (s : State) : State :=
  match (s.bay b).job, s.bayClass b with
  | some j, some c =>
    if b ∈ s.engine.queue.map Entry.bay then s else
    let n := nextEntryNumber s.engine.lastNumber
    let e : Entry :=
      { bay := b, row := (patchAt j).row, samples := j.params.samples, cols := c.cols, rows := c.rows, number := n }
    chooseEntry (holdEntry b (some n) (enqueueEntry e s))
  | _, _ => s

/-- The current capture ends: its entry leaves the queue and the engine returns to IDLE (R91, R93, R95). -/
def endCapture (b : Bay) (s : State) : State :=
  s.setEngine { s.engine with current := none, queue := s.engine.queue.filter (fun x => x.bay ≠ b) }

/-- A probe's outstanding request is dropped or has ended. -/
def clearProbeReq (b : Bay) (s : State) : State := s.setProbe b { s.probe b with outstanding := none }

/-! ## Withdrawal and abandonment (R94, R95) -/

/-- The bay whose entry is current. -/
def Engine.currentBay (e : Engine) : Option Bay := e.current.map (fun c => c.entry.bay)

/-- The sheet row of the patch at a job's cursor. -/
def cursorRow (r : BayRec) : Option Nat := r.job.map (fun j => (patchAt j).row)

/-- The sheet row of the patch whose entry a bay withdraws returns to unfilled where the entry's capture has completed, so that
it has left the queue (R96, R103; R25 item 2). The withdrawal of an entry still in the queue changes no row (R71, R94, R95), one
filled by an earlier completion included (log entry 39). -/
def clearOwnRow (b : Bay) (s : State) : State :=
  if b ∈ s.engine.queue.map Entry.bay then s
  else match cursorRow (s.bay b) with
    | none => s
    | some r => clearRow b r s

/-- A bay's entry leaves the queue: a current one abandons the capture and the engine chooses again (R94, R95). -/
def removeEntry (b : Bay) (s : State) : State :=
  if s.engine.currentBay = some b then chooseEntry (endCapture b (clearProbeReq b s))
  else s.setEngine { s.engine with queue := s.engine.queue.filter (fun x => x.bay ≠ b) }

/-- A bay withdraws its capture entry, if it has one (R25 item 2, R94 to R96). -/
def withdrawEntry (b : Bay) (s : State) : State :=
  match (s.bay b).entry with
  | none => s
  | some _ => removeEntry b (clearOwnRow b (holdEntry b none s))

/-! ## Readings (R90) -/

/-- The luminance sum and number of the accepted frames in which a zone is not UNRESOLVED, and whether it was SATURATED in
any (R90). -/
def zoneTotals (frames : List (List ZoneEntry)) (zone : Nat) : Nat × Nat × Bool :=
  frames.foldl (fun t f =>
    match f.drop zone with
    | [] => t
    | z :: _ =>
      match z.status with
      | .unresolved => t
      | .resolved => (t.1 + z.lum, t.2.1 + 1, t.2.2)
      | .saturated => (t.1 + z.lum, t.2.1 + 1, true)) (0, 0, false)

/-- The luminance and saturated mark of a zone: the sum times the reference factor divided by 1024 × the number of frames,
rounded once and held at 65,535 (R90). -/
def zoneReading (frames : List (List ZoneEntry)) (factor zone : Nat) : Nat × Bool :=
  let t := zoneTotals frames zone
  if t.2.1 = 0 then (0, false) else (min 65535 (roundDiv (t.1 * factor) (1024 * t.2.1)), t.2.2)

/-- The sheet row a capture's accepted frames give, flags assigned by the map store (R90, R102). -/
def formRow (c : Current) (factor : Nat) (mask : List Nat) : Row :=
  { cols := c.entry.cols, rows := c.entry.rows, uniformity := none,
    readings := flagRow mask c.entry.cols c.entry.rows
      ((List.range (c.entry.cols * c.entry.rows)).map (zoneReading c.accepted factor)) }

/-- The zone mask of a bay's job. -/
def jobMask (r : BayRec) : List Nat :=
  match r.job with
  | none => []
  | some j => j.params.mask

/-- A bay told of its completion proceeds from step 5 of R12, if the report bears the number it holds (R82, R91). -/
def tellCompletion (b : Bay) (number : Nat) (s : State) : State :=
  if (s.bay b).entry = some number then
    place b (bareReq .dark .work) (holdEntry b none s)
  else s

/-- A probe's captures since reference rises by one, held at 255 (R79, R91). -/
def countCapture (b : Bay) (s : State) : State :=
  s.setProbe b { s.probe b with count := min ((s.probe b).count + 1) 255 }

/-- Completion of the current capture, items 1 to 7 of R91. -/
def completeCapture (c : Current) (s : State) : State :=
  let b := c.entry.bay
  let s := countCapture b (writeRow b c.entry.row (formRow c (s.probe b).factor (jobMask (s.bay b))) s)
  chooseEntry (tellCompletion b c.entry.number (endCapture b (releaseAdmission b s)))

/-! ## Deliveries (R86, R87, R89) -/

/-- The reference factor 1024 × nominal ÷ measured, rounded, if it is in 922..1126 (R86). -/
def newFactor (measured nominal : Nat) : Option Nat :=
  if measured = 0 then none
  else
    let f := roundDiv (1024 * nominal) measured
    if 922 ≤ f ∧ f ≤ 1126 then some f else none

/-- The engine goes on with the current capture, or it fails with a cause for its bay (R93). -/
inductive CaptureStep
  | goesOn (s : State)
  | fails (cause : FaultCause) (s : State)
deriving DecidableEq, Repr

/-- A REFERENCE delivered in REFERENCING (R86). -/
def onReference (c : Current) (measured nominal : Nat) (s : State) : CaptureStep :=
  let b := c.entry.bay
  match newFactor measured nominal with
  | some f => .goesOn (beginExposing c.entry (s.setProbe b { s.probe b with factor := f, count := 0, fault := false }))
  | none => .fails .probeDrift (s.setProbe b { s.probe b with fault := true })

/-- The step an exposure frame calls for: down when saturated, up when faint, none when settled (R87, item 2). -/
inductive Judgement
  | down | up | settled
deriving DecidableEq, Repr

def judgeExposure (satCount peak : Nat) : Judgement :=
  if 0 < satCount then .down else if peak < 250 then .up else .settled

/-- Adds one to a bay's exposure adjustments counter (R29). -/
def countAdjustment (b : Bay) (s : State) : State :=
  s.setBay b { s.bay b with adjustments := bump (s.bay b).adjustments }

/-- Adds one to a bay's frames discarded counter (R29). -/
def countDiscard (b : Bay) (s : State) : State := s.setBay b { s.bay b with discarded := bump (s.bay b).discarded }

/-- Item 3 of R87: a step inside 1..12 is taken and counted; the sixth frame fails the loop, an earlier one is followed by a
frame at the new step. -/
def stepTo (c : Current) (step : Nat) (s : State) : CaptureStep :=
  let b := c.entry.bay
  let s := countAdjustment b (s.setProbe b { s.probe b with step := step })
  if 6 ≤ c.exposures then .fails .captureExposure s
  else .goesOn (sendFrameReq b c.entry.cols c.entry.rows (setCurrent (some { c with exposures := c.exposures + 1 }) s))

/-- A FRAME delivered in EXPOSING (R87). -/
def onExposure (c : Current) (satCount peak : Nat) (s : State) : CaptureStep :=
  let step := (s.probe c.entry.bay).step
  match judgeExposure satCount peak with
  | .down => if 1 < step then stepTo c (step - 1) s else .fails .captureExposure s
  | .up => if step < 12 then stepTo c (step + 1) s else .fails .captureExposure s
  | .settled =>
    .goesOn (sendFrameReq c.entry.bay c.entry.cols c.entry.rows
      (setCurrent (some { c with phase := .sampling, accepted := [], discarded := 0 }) s))

/-- A sample frame is accepted when its valid zone count × 20 is at least the zone count × 19 (R89). -/
def sampleAccepted (validCount zoneCount : Nat) : Bool := decide (zoneCount * 19 ≤ validCount * 20)

/-- A FRAME delivered in SAMPLING (R89). -/
def onSample (c : Current) (validCount : Nat) (zones : List ZoneEntry) (s : State) : CaptureStep :=
  let b := c.entry.bay
  if sampleAccepted validCount (c.entry.cols * c.entry.rows) then
    let c := { c with accepted := c.accepted ++ [zones] }
    let s := setCurrent (some c) s
    if c.entry.samples ≤ c.accepted.length then .goesOn (completeCapture c s)
    else .goesOn (sendFrameReq b c.entry.cols c.entry.rows s)
  else
    let c := { c with discarded := c.discarded + 1 }
    let s := countDiscard b (setCurrent (some c) s)
    if 4 ≤ c.discarded then .fails .captureQuality s
    else .goesOn (sendFrameReq b c.entry.cols c.entry.rows s)

/-- A delivery answers the outstanding request: kind, sequence number and, for a FRAME, step and zone number agree (R81). -/
def answersProbe (o : ProbeReq) : Delivery → Bool
  | .frame n step _ _ _ zones =>
    !o.isRef && decide (n = o.seqNo) && decide (step = o.step) && decide (zones.length = o.cols * o.rows)
  | .reference n _ _ => o.isRef && decide (n = o.seqNo)

/-- The engine acts on a delivery in its state (R84, R97). -/
def onDelivery (c : Current) (d : Delivery) (s : State) : CaptureStep :=
  match c.phase, d with
  | .referencing, .reference _ m n => onReference c m n s
  | .exposing, .frame _ _ peak sat _ _ => onExposure c sat peak s
  | .sampling, .frame _ _ _ _ valid zones => onSample c valid zones s
  | .referencing, .frame _ _ _ _ _ _ => .goesOn s
  | .exposing, .reference _ _ _ => .goesOn s
  | .sampling, .reference _ _ _ => .goesOn s

end Sys2Proof.Machine
end

