-- ==== Sys2Proof/Machine/Solver.lean ====
section
/-! DEFINITION. The map solver's arithmetic (R106 to R113) and the verify evaluation (R110). A target luminance is kept
exact as thousandths: `t` stands for the luminance t ÷ 1000. -/

namespace Sys2Proof.Machine

open Sys2Proof

/-- The luminances of a row's VALID zones. -/
def validLums (rs : List Reading) : List Nat := (rs.filter (fun r => decide (r.flag = .valid))).map Reading.lum

/-- The least of a list, if it is not empty. -/
def least? : List Nat → Option Nat
  | [] => none
  | x :: rest =>
    match least? rest with
    | none => some x
    | some y => some (min x y)

/-- The greatest of a list, 0 for the empty list. -/
def greatest : List Nat → Nat
  | [] => 0
  | x :: rest => max x (greatest rest)

/-- 1000 × least ÷ greatest by integer division; 0 with no value or a greatest of 0 (R108, R110). -/
def perMille (xs : List Nat) : Nat :=
  match least? xs with
  | none => 0
  | some m => if greatest xs = 0 then 0 else 1000 * m / greatest xs

/-- The luminance of a row's centre zone, whatever its flag. -/
def centreLum (r : Row) : Nat := (r.readings.getD (centreZone r.cols r.rows) { lum := 0, flag := .valid }).lum

/-- The target luminance in thousandths: the greater of the least VALID luminance and the floor, or the floor when no zone is
VALID (R106, R111). -/
def targetMilli (r : Row) (floorRatio : Nat) : Nat :=
  let floor := centreLum r * floorRatio
  match least? (validLums r.readings) with
  | none => floor
  | some m => max (1000 * m) floor

/-- A gain held within 614..1024 (R107, R112). -/
def holdGain (g : Nat) : Nat := min 1024 (max 614 g)

/-- A cell with what it is counted as. -/
structure CellResult where
  cell : Cell
  below : Bool
  beyond : Bool
deriving DecidableEq, Repr

/-- The cell of a masked zone (R107, R112). -/
def maskedCell : CellResult := { cell := { gain := 1024, masked := true }, below := false, beyond := false }

/-- A rounded quotient by thousandths of a luminance; for luminance 0 it is the free value of log entry 16. -/
def gainQuotient (dividend lum : Nat) : Nat :=
  if lum = 0 then Config.zeroQuotient dividend 1000 else roundDiv dividend (1000 * lum)

/-- The cell of one zone in a FIRST solve (R107). -/
def firstCell (t : Nat) (r : Reading) : CellResult :=
  match r.flag with
  | .masked => maskedCell
  | .saturated =>
    { cell := { gain := holdGain (gainQuotient (1024 * t) r.lum), masked := false }, below := false, beyond := true }
  | .valid | .dark =>
    if 1000 * r.lum ≤ t then
      { cell := { gain := 1024, masked := false }, below := decide (1000 * r.lum < t), beyond := false }
    else
      let g := roundDiv (1024 * t) (1000 * r.lum)
      { cell := { gain := holdGain g, masked := false }, below := false, beyond := decide (g < 614) }

/-- The cell of one zone in a RESOLVE, from its old cell and its verify reading (R112). -/
def resolveCell (t : Nat) (old : Cell) (r : Reading) : CellResult :=
  match r.flag with
  | .masked => maskedCell
  | .saturated =>
    { cell := { gain := holdGain (gainQuotient (old.gain * t) r.lum), masked := false }, below := false,
      beyond := true }
  | .valid | .dark =>
    if r.lum = 0 then { cell := { gain := 1024, masked := false }, below := true, beyond := false }
    else
      let g := roundDiv (old.gain * t) (1000 * r.lum)
      { cell := { gain := holdGain g, masked := false }, below := decide (1000 * r.lum < t),
        beyond := decide (g < 614) }

/-- Corrected luminances × 1024 of a section's VALID zones (R108). -/
def corrected (rs : List Reading) (cells : List CellResult) : List Nat :=
  ((rs.zip cells).filter (fun x => decide (x.1.flag = .valid))).map (fun x => x.1.lum * x.2.cell.gain)

/-- A section from its cells, its outcome NOT_SENT (R105). -/
def sectionOf (kind : SolveKind) (t : Nat) (cells : List CellResult) (predicted : Option Nat) : Section :=
  { cells := cells.map CellResult.cell,
    summary := { kind := kind, target := roundDiv t 1000, belowFloor := cells.countP CellResult.below,
                 beyondRange := cells.countP CellResult.beyond, predicted := predicted },
    outcome := .notSent }

/-- One section of a FIRST solve from its plan row (R106 to R108). -/
def firstSection (r : Row) (floorRatio : Nat) : Section :=
  let t := targetMilli r floorRatio
  let cells := r.readings.map (firstCell t)
  sectionOf .first t cells (some (perMille (corrected r.readings cells)))

/-- One section of a RESOLVE from its present cells and its channel's verify row (R111, R112). -/
def resolveSection (r : Row) (floorRatio : Nat) (old : List Cell) : Section :=
  let t := targetMilli r floorRatio
  let cells := (old.zip r.readings).map (fun x => resolveCell t x.1 x.2)
  sectionOf .resolve t cells none

/-- A row has an unmasked DARK zone; a DARK zone is unmasked by R102. -/
def hasDark (rs : List Reading) : Bool := rs.any (fun r => decide (r.flag = .dark))

/-- The counts of a section exceed the zone tolerance (R109, R113). -/
def overTolerance (tolerance : Nat) (c : Section) : Bool :=
  decide (tolerance < c.summary.belowFloor + c.summary.beyondRange)

/-- The detail of the first check a section of a FIRST solve fails (R109). -/
def firstSectionFault (p : JobParams) (r : Row) (c : Section) : Option Nat :=
  if hasDark r.readings then some 1
  else if overTolerance p.tolerance c then some 2
  else if c.summary.predicted.getD 0 < p.target then some 3
  else none

/-- The result of a solve: every section, and the rejection's detail or none for SOLVED (R104). -/
structure SolveResult where
  cols : Nat
  rows : Nat
  sections : List Section
  reject : Option Nat
deriving DecidableEq, Repr

/-- A row, or an empty one where it is unfilled, which no solve meets (log entry 27). -/
def rowOr (a : Area) (i : Nat) : Row := (a.row i).getD { cols := 0, rows := 0, readings := [], uniformity := none }

/-- A FIRST solve of a bay's plan rows (R106 to R109). -/
def firstSolve (a : Area) (p : JobParams) : SolveResult :=
  let rows := (List.range (3 * p.levels.length)).map (rowOr a)
  let pairs := rows.map (fun r => (r, firstSection r p.floorRatio))
  { cols := (rowOr a 0).cols, rows := (rowOr a 0).rows, sections := pairs.map Prod.snd,
    reject := pairs.findSome? (fun x => firstSectionFault p x.1 x.2) }

/-- A RESOLVE of a bay's frame by its verify rows (R111 to R113). -/
def resolveSolve (a : Area) (p : JobParams) : SolveResult :=
  let old := match a.frame with
    | none => []
    | some f => f.sections
  let sections := old.mapIdx (fun i c => resolveSection (rowOr a (12 + i % 3)) p.floorRatio c.cells)
  { cols := (rowOr a 12).cols, rows := (rowOr a 12).rows, sections := sections,
    reject := if sections.any (overTolerance p.tolerance) then some 2 else none }

/-- A solve of either kind. -/
def runSolve (k : SolveKind) (a : Area) (p : JobParams) : SolveResult :=
  match k with
  | .first => firstSolve a p
  | .resolve => resolveSolve a p

/-- The measured uniformity of a verify row (R110). -/
def measuredUniformity (rs : List Reading) : Nat := if hasDark rs then 0 else perMille (validLums rs)

end Sys2Proof.Machine
end

