-- ==== Sys2Proof/Machine/Keys.lean ====
section
/-! DEFINITION. The key stock (R135 to R156): reservation, offers, the waiting list, the start of a key transfer, voiding and
the withdrawal of a bay's claims. -/

namespace Sys2Proof.Machine

open Sys2Proof

/-- A record fits a class and region: same class, and a region list that is empty or holds the code (R143, R145). -/
def fits (cls : Nat) (region : Triple) (r : KeyRec) : Bool :=
  decide (r.cls = cls) && (r.regions.isEmpty || r.regions.contains region)

/-- The record is AVAILABLE. -/
def KeyRec.isAvailable (r : KeyRec) : Bool := decide (r.state = .available)

/-- The first AVAILABLE record in load order that fits: the one with the lowest load sequence (R143). -/
def Stock.choose (k : Stock) (cls : Nat) (region : Triple) : Option KeyRec :=
  k.records.find? (fun r => r.isAvailable && fits cls region r)

/-- The class a bay in KEYS asks for and its profile's region code (R17, R143). -/
def keyWanted (s : State) (b : Bay) : Option (Nat × Triple) :=
  match (s.bay b).job, s.bayProfile b with
  | some j, some p =>
    match p.keyClasses.drop j.keyCursor with
    | [] => none
    | c :: _ => some (c, p.region)
  | _, _ => none

/-- A transfer with no key in IDLE. -/
def idleXfer (b : Bay) (s : State) : State := s.setXfer b Xfer.reset

/-- Voids a record: reason, serial if it was voided at a set, blob erased (R137, R149, R152, R154). -/
def voidRecord (id : Nat) (serial : Option (List Byte)) (reason : VoidReason) (s : State) : State :=
  s.setStock (s.stock.modify id (KeyRec.void serial reason))

/-- The KEY VOIDED notice of a record (R155). -/
def voidNotice (b : Bay) (k : KeyRec) (serial : Option (List Byte)) (reason : VoidReason) : Notice :=
  .keyVoided k.keyId k.cls k.batch b serial reason

/-- The bay joins the waiting list: STOCK SHORT is queued and the bay places HOLD (R17, R144). -/
def joinWaiting (b : Bay) (cls : Nat) (region : Triple) (s : State) : State :=
  let s := s.setStock { s.stock with
    waiting := s.stock.waiting ++ [{ bay := b, cls := cls, region := region, joined := s.now }] }
  place b (bareReq .hold .work) (bayNotice b (.stockShort b cls region) s)

/-- What the start of a transfer comes to: it runs, or its pre-send check voided the record and the bay asks again. -/
inductive Started
  | runs (s : State)
  | voided (s : State)
deriving DecidableEq, Repr

/-- The start of a key transfer for the bay's current key: the pre-send check, then chunk 0 placed (R148, R149). -/
def startTransfer (b : Bay) (s : State) : Started :=
  match (s.bay b).job with
  | none => .runs s
  | some j =>
    match j.keyId with
    | none => .runs s
    | some id =>
      match s.stock.find id with
      | none => .runs s
      | some k =>
        let blob := k.blob.getD []
        if crc32 blob = k.check then
          let n := chunkCount k.blobLen
          .runs (place b (chunkReq k.cls 0 n blob)
            (s.setXfer b { phase := .chunks, keyId := some id, chunks := n, cursor := 0 }))
        else
          .voided (s.modJob b (fun j => { j with keyId := none }) |> idleXfer b
            |> bayNotice b (voidNotice b k none .preSendCheck) |> voidRecord id none .preSendCheck)

/-- A bay takes the stock's reservation (R147): the key ID becomes current, a HOLD still queued is withdrawn, and by the hold
state the transfer starts, WAKE is placed, kept pending, or already on its way (log entry 23). -/
def takeReservation (b : Bay) (id : Nat) (s : State) : Started :=
  let s := withdraw b PortReq.isHold (s.modJob b (fun j => { j with keyId := some id }))
  match (s.port b).hold with
  | .none => startTransfer b s
  | .held => .runs (if (s.port b).has PortReq.isWake then s else place b (bareReq .wake .work) s)
  | .entering => .runs (s.setPort b { s.port b with wakePending := true })
  | .waking => .runs s

/-- A waiting bay is given a record: it leaves the list, and the record becomes RESERVED, naming it (R145). -/
def giveTo (b : Bay) (id : Nat) (s : State) : State :=
  s.setStock { s.stock.modify id (KeyRec.reserve b) with waiting := s.stock.waiting.filter (fun x => x.bay ≠ b) }

/-- A bay leaves the waiting list (R144). -/
def leaveWaiting (b : Bay) (s : State) : State :=
  s.setStock { s.stock with waiting := s.stock.waiting.filter (fun x => x.bay ≠ b) }

/-- A record becomes RESERVED, naming a bay (R143, R145). -/
def reserve (b : Bay) (id : Nat) (s : State) : State :=
  s.setStock (s.stock.modify id (KeyRec.reserve b))

/-- A bay in KEYS asks for a reservation (R143): the fitting record is reserved and the bay told, or the bay joins the waiting list.
It asks only when it claims no key and does not wait for one (R143, R144). A pre-send void makes it ask again (R149); each such turn
spends one AVAILABLE record, so the fuel of one more than the records is enough. -/
def askKey : Nat → Bay → State → State
  | 0, _, s => s
  | fuel + 1, b, s =>
    if b ∈ s.stock.claimants then s else
    match keyWanted s b with
    | none => s
    | some (cls, region) =>
      match s.stock.choose cls region with
      | none => joinWaiting b cls region s
      | some k =>
        match takeReservation b k.keyId (reserve b k.keyId s) with
        | .runs s => s
        | .voided s => askKey fuel b s

/-- A bay asks for a reservation of the class at its key cursor (R17). -/
def askReservation (b : Bay) (s : State) : State := askKey (s.stock.records.length + 1) b s

/-- Goes on after the start of a transfer: a pre-send void makes the bay ask again (R149). -/
def afterStart (b : Bay) : Started → State
  | .runs s => s
  | .voided s => askReservation b s

/-- The bay is RUNNING in KEYS with no key named (R147). -/
def awaitsKey (r : BayRec) : Bool :=
  r.runningIn .keys && (match r.job with
    | none => false
    | some j => j.keyId.isNone)

/-- A record made AVAILABLE is offered to the waiting list in join order (R145). -/
def offer (id : Nat) (s : State) : State :=
  match s.stock.find id with
  | none => s
  | some k =>
    match s.stock.waiting.find? (fun w => fits w.cls w.region k) with
    | none => s
    | some w =>
      let s := giveTo w.bay id s
      if awaitsKey (s.bay w.bay) then afterStart w.bay (takeReservation w.bay id s) else s

/-- AWAKE answered for a bay whose reservation waits for it: the transfer starts (R56, R147). -/
def onAwake (b : Bay) (s : State) : State :=
  if (s.bay b).runningIn .keys && decide ((s.xfer b).phase = .idle) then afterStart b (startTransfer b s) else s

/-- The record RESERVED to a bay. -/
def Stock.reservedTo (k : Stock) (b : Bay) : Option KeyRec := k.records.find? (fun r => decide (r.state = .reserved b))

/-- The record SENDING to a bay's set. -/
def Stock.sendingTo (k : Stock) (b : Bay) : Option KeyRec := k.records.find? (fun r => decide (r.state = .sending b))

/-- Item 1 of R154: the record RESERVED to a bay returns to AVAILABLE. -/
def returnReserved (b : Bay) (s : State) : State :=
  match s.stock.reservedTo b with
  | none => s
  | some k => s.setStock (s.stock.modify k.keyId KeyRec.release)

/-- Item 2 of R154: the record SENDING to a bay's set becomes VOIDED with reason CLEANUP; R21 withholds its notice while the
bay is FAULTED. -/
def voidSending (b : Bay) (s : State) : State :=
  match s.stock.sendingTo b with
  | none => s
  | some k =>
    let serial := some (s.bay b).serial
    bayNotice b (voidNotice b k serial .cleanup) (voidRecord k.keyId serial .cleanup s)

/-- Item 4 of R154: a bay's transfer becomes IDLE, or HALTED while a request of it is outstanding. -/
def stopXfer (b : Bay) (s : State) : State :=
  if (s.port b).outIs PortReq.isKeyTransfer then s.setXfer b { s.xfer b with phase := .halted } else idleXfer b s

/-- Items 1 to 4 of the withdrawal of a bay's key claims (R154). -/
def withdrawKeyClaims (b : Bay) (s : State) : State :=
  stopXfer b (leaveWaiting b (voidSending b (returnReserved b s)))

/-- The key stock withdrawal of a cleanup (R154): items 1 to 4, then the returned record is offered. -/
def withdrawKeys (b : Bay) (s : State) : State :=
  match s.stock.reservedTo b with
  | none => withdrawKeyClaims b s
  | some k => offer k.keyId (withdrawKeyClaims b s)

end Sys2Proof.Machine
end

