-- ==== Sys2Proof/Machine/Jobs.lean ====
section
/-! DEFINITION. The bay controller's shared operations: cleanup (R25, R26), faults (R21, R22), verdicts (R19), and the
entries and restarts of the running stages (R10 to R18, R121, R130). -/

namespace Sys2Proof.Machine

open Sys2Proof

/-! ## Cleanup (R25, R26) -/

/-- A set request that cleanup withdraws from the queue unsent: every one but a WAKE and a CLOSE SECTION (R25 item 8, R61,
R127, R153; log entry 13 for a queued HELLO). -/
def withdrawnByCleanup (r : PortReq) : Bool := !(r.isWake || r.isClose)

/-- Places CLOSE SECTION when the open-section record holds a section and none is queued or outstanding (R26, R129). -/
def placeClose (b : Bay) (s : State) : State :=
  match (s.port b).openSection with
  | none => s
  | some id => if (s.port b).has PortReq.isClose then s else place b (closeReq id) s

/-- Wakes a set in hold: WAKE is placed in HELD, kept pending in ENTERING, and already outstanding in WAKING (R25 item 8,
R56, R147). -/
def placeWake (b : Bay) (s : State) : State :=
  match (s.port b).hold with
  | .held => if (s.port b).has PortReq.isWake then s else place b (bareReq .wake .cleanup) s
  | .entering => s.setPort b { s.port b with wakePending := true }
  | .waking => s
  | .none => s

/-- Places DARK when the showing flag is set and none is queued or outstanding (R25 item 8, R129). -/
def placeDark (b : Bay) (s : State) : State :=
  if (s.bay b).showing && !(s.port b).has PortReq.isDark then place b (bareReq .dark .cleanup) s else s

/-- A cleanup that places CLOSE SECTION records the section PARTIAL with it (R26, R127; log entry 8), but not while OPEN SECTION is
outstanding: refused, it leaves the outcome as it stood (R126), and answered OPENED it lets the CLOSE be sent (`openedLate`). -/
def closePartial (b : Bay) (s : State) : State := if (s.port b).outIs PortReq.isOpen then s else markOpenPartial b s

/-- Set traffic of cleanup in its fault and abort form with link-alive true: the section is recorded PARTIAL, and CLOSE, WAKE, DARK
are placed for those of the three that apply (R26). -/
def cleanupTraffic (b : Bay) (s : State) : State := placeDark b (placeWake b (placeClose b (closePartial b s)))

/-- Without traffic: the section is marked closed and PARTIAL, the showing flag cleared (R26). -/
def cleanupSilent (b : Bay) (s : State) : State :=
  let s := markOpenPartial b s
  let s := s.setPort b { s.port b with openSection := none }
  s.setBay b { s.bay b with showing := false }

/-- Items 1 to 3 of R25: governor, capture entry and settle timer, solve. -/
def withdrawClaims (b : Bay) (s : State) : State :=
  let s := releaseAdmission b (withdrawRequest b s)
  let s := withdrawEntry b s
  let s := s.setBay b { s.bay b with settleTimer := none, showPending := false }
  s.setSolve b none

/-- After item 8 of R25 the current key ID is absent. -/
def forgetKey (b : Bay) (s : State) : State := s.modJob b (fun j => { j with keyId := none })

/-- Cleanup in its fault and abort form (R25, R26): the queued job requests are withdrawn whatever link-alive is. -/
def cleanup (b : Bay) (s : State) : State :=
  let s := orphanOutstanding b (withdrawClaims b s)
  let s := withdraw b withdrawnByCleanup (withdrawKeys b s)
  let s := if (s.port b).linkAlive then cleanupTraffic b s else cleanupSilent b s
  forgetKey b s

/-- The set port cleared: outstanding request abandoned, queue discarded, clocks stopped, link-alive false, no tunnel record
(R26, R28, R42). -/
def clearPort (b : Bay) (s : State) : State := s.setPort b Port.reset

/-- Cleanup in its removal form (R25, R26); a pending pass is replied first (R61). -/
def removalCleanup (b : Bay) (s : State) : State :=
  let s := withdrawClaims b (endPass b s)
  let s := clearPort b (cleanupSilent b s)
  forgetKey b (withdrawKeys b s)

/-! ## Faults (R21, R22) -/

/-- The sequencer of a faulting bay is HALTED when a transfer is in hand (R127). -/
def haltSeq (b : Bay) (s : State) : State :=
  if (s.seq b).phase = .idle then s else s.setSeq b { s.seq b with phase := .halted }

/-- The record of a bay entering FAULTED: from-state, one cause, timers stopped (R21). `keep` says whether the cause is a
refused KEEP (R23). -/
def BayRec.enterFault (r : BayRec) (cause : FaultCause) (keep : Bool) : BayRec :=
  { r with state := .faulted, origin := some r.state, faults := [cause], overflow := false, firstKeep := keep,
           attachTimer := none, settleTimer := none }

/-- A cause reaching a FAULTED bay: appended while the list holds fewer than 4, otherwise the overflow flag is set (R22). -/
def BayRec.appendFault (r : BayRec) (cause : FaultCause) : BayRec :=
  if r.faults.length < 4 then { r with faults := r.faults ++ [cause] } else { r with overflow := true }

/-- Entry to FAULTED (R21): a queued pass is replied (R61), the FAULT notice goes out, HELLO polling ends but for a HELLO already
outstanding (R38), the fault form of cleanup runs. R61 names the reply for a refused KEEP; that a refusal of another request left
over in TUNNEL withdraws and replies the pass before the FAULT notice too is a DESIGN CHOICE (log entry 47). -/
def enterFaulted (b : Bay) (cause : FaultCause) (detail : Nat) (keep : Bool) (s : State) : State :=
  let s := endQueuedPass b s
  let r := s.bay b
  let s := s.setBay b (r.enterFault cause keep)
  let s := placeNotice (.fault b cause r.state r.stage? detail) s
  cleanup b (haltSeq b (settleHello b s))

/-- A fault at a bay: it enters FAULTED, or a FAULTED bay appends the cause (R21, R22); a bay with no set takes none. -/
def raiseFault (b : Bay) (cause : FaultCause) (detail : Nat) (keep : Bool) (s : State) : State :=
  match (s.bay b).state with
  | .faulted => s.setBay b ((s.bay b).appendFault cause)
  | .attaching | .ready | .running | .tunnel | .stopped => enterFaulted b cause detail keep s
  | .parked | .empty => s

/-- A fault that makes link-alive false first: SET_SILENT and SERVICE_LAPSED (R21, R46, R50). A QUEUED pass is thereby replied
BAD_STATE before the FAULT notice, the model's choice: R61 gives the order for a refused KEEP only (log entry 44). -/
def raiseSilent (b : Bay) (cause : FaultCause) (s : State) : State := raiseFault b cause 0 false (linkDown b s)

/-! ## Verdicts (R19) -/

/-- The sequencer of a closed job is IDLE, its cursors and counts as they stood (R120). -/
def idleSeq (b : Bay) (s : State) : State := s.setSeq b { s.seq b with phase := .idle }

/-- Closing the open job with a verdict: its references end (R159), the job fields stay in the record. -/
def closeJob (b : Bay) (v : Verdict) (s : State) : State :=
  idleSeq b ((s.modRefs b (fun n => n - 1)).modJob b (fun j => { j with verdict := some v }))

/-- The JOB DONE notice of a bay's record (R19, R24, R27). -/
def doneNotice (b : Bay) (v : Verdict) (detail : Nat) (r : BayRec) : Notice :=
  match r.job with
  | none => .jobDone b v r.serial .region 0 detail
  | some j => .jobDone b v r.serial j.stage j.pass detail

/-- A job ends with a verdict of R11 and R14 to R18: it closes, the bay enters STOPPED, JOB DONE goes out (R19). -/
def endJob (b : Bay) (v : Verdict) (detail : Nat) (s : State) : State :=
  let s := closeJob b v s
  let s := s.setBay b { s.bay b with state := .stopped }
  bayNotice b (doneNotice b v detail (s.bay b)) s

/-! ## Stages -/

/-- The STAGE notice of a bay's record (R10). -/
def stageNotice (b : Bay) (s : State) : State :=
  match (s.bay b).job with
  | none => s
  | some j => bayNotice b (.stage b j.stage j.pass) s

/-- A stage is entered: the record changes and the STAGE notice goes out (R10). -/
def enterStage (b : Bay) (f : Job → Job) (s : State) : State := stageNotice b (s.modJob b f)

/-- SET REGION is placed with the payload of the job's profile (R11, R166). -/
def placeRegion (b : Bay) (s : State) : State :=
  match s.bayProfile b with
  | none => s
  | some p => place b (regionReq p) s

/-- The three REGION checks in order: the number of the first that fails (R165). -/
def regionCheck (s : State) (b : Bay) : Option Nat :=
  match s.bayClass b with
  | none => some 1
  | some c =>
    match s.bayProfile b, (s.bay b).identity with
    | some p, some i =>
      if !pairAllowed c.pairs p.frameRate p.drive then some 2
      else if !i.caps.contains p.region then some 3
      else none
    | _, _ => some 1

/-- Entry to REGION: the checks reject the job or SET REGION is placed (R11). -/
def enterRegion (b : Bay) (s : State) : State :=
  match regionCheck s b with
  | some n => endJob b .rejectRegion n s
  | none => placeRegion b s

/-- Entry to MEASURE with patch cursor 0 (R11, R12). -/
def enterMeasure (b : Bay) (s : State) : State :=
  startPatch b (enterStage b (fun j => { j with stage := .measure, cursor := 0, overtime := 0 }) s)

/-- Entry to SOLVE: the bay asks for one solve of a kind (R14, R104). -/
def enterSolve (b : Bay) (k : SolveKind) (s : State) : State :=
  (enterStage b (fun j => { j with stage := .solve, solveKind := k }) s).setSolve b (some k)

/-- Cells of a section of the bay's map frame. -/
def sectionCells (s : State) (b : Bay) (id : Nat) : List Cell :=
  match (s.area b).frame with
  | none => []
  | some f =>
    match f.sections.drop id with
    | [] => []
    | c :: _ => c.cells

/-- Section count of the bay's map frame (R118). -/
def sectionCount (s : State) (b : Bay) : Nat :=
  match (s.area b).frame with
  | none => 0
  | some f => f.sections.length

/-- The sequencer opens the section at its cursor (R121). -/
def openAtCursor (b : Bay) (s : State) : State :=
  place b (openReq (s.seq b).sec) (s.setSeq b { s.seq b with phase := .opening, burst := 0 })

/-- The section at the cursor, or APPLY MAP when every section is done (R124, R130). -/
def nextSection (b : Bay) (s : State) : State :=
  if (s.seq b).sec < sectionCount s b then openAtCursor b s
  else place b (bareReq .applyMap .work) (s.setSeq b { s.seq b with phase := .applying })

/-- Entry to TRANSFER: cursors and counts to 0, OPEN SECTION for section 0 (R15, R121). -/
def enterTransfer (b : Bay) (s : State) : State :=
  let s := enterStage b (fun j => { j with stage := .transfer }) s
  openAtCursor b (s.setSeq b Sequencer.reset)

/-- Entry to VERIFY with patch cursor 0; the verify rows return to unfilled (R16, R103). -/
def enterVerify (b : Bay) (s : State) : State :=
  let s := clearRow b 12 (clearRow b 13 (clearRow b 14 s))
  startPatch b (enterStage b (fun j => { j with stage := .verify, cursor := 0, overtime := 0 }) s)

/-- Entry to FINISH: FINISH is sent (R18). -/
def enterFinish (b : Bay) (s : State) : State :=
  place b (bareReq .finish .work) (enterStage b (fun j => { j with stage := .finish }) s)

/-- The next required key class is asked for, or FINISH when the list is done (R17). -/
def nextKey (b : Bay) (s : State) : State :=
  match keyWanted s b with
  | none => enterFinish b s
  | some _ => askReservation b s

/-- Entry to KEYS (R17). -/
def enterKeys (b : Bay) (s : State) : State :=
  nextKey b (enterStage b (fun j => { j with stage := .keys, keyCursor := 0, attempts := 0 }) s)

/-- Writes the measured uniformity into a verify row (R110). -/
def evaluateRow (b : Bay) (i : Nat) (s : State) : State :=
  match (s.area b).row i with
  | none => s
  | some r => writeRow b i { r with uniformity := some (measuredUniformity r.readings) } s

/-- A verify row's measured uniformity, 0 when the row is unfilled. -/
def rowUniformity (s : State) (b : Bay) (i : Nat) : Nat := measuredUniformity (rowOr (s.area b) i).readings

/-- The verify evaluation and the job's next step (R16, R110). -/
def evaluateVerify (b : Bay) (s : State) : State :=
  match (s.bay b).job with
  | none => s
  | some j =>
    let s := evaluateRow b 14 (evaluateRow b 13 (evaluateRow b 12 s))
    if [12, 13, 14].all (fun i => decide (j.params.target ≤ rowUniformity s b i)) then
      enterKeys b (setFrameState b .verified s)
    else if j.pass < j.params.iterLimit then enterSolve b .resolve s
    else endJob b .rejectPanel 4 s

/-- A patch is finished when its DARK is answered: cursor advanced, overtime count 0; at the plan's end the stage changes
(R12 step 6, R16). -/
def finishPatch (b : Bay) (s : State) : State :=
  let s := s.modJob b (fun j => { j with cursor := j.cursor + 1, overtime := 0 })
  match (s.bay b).job with
  | none => s
  | some j =>
    if j.stage = .measure then
      if j.cursor = 3 * j.params.levels.length then enterSolve b .first s else startPatch b s
    else if j.cursor = 3 then evaluateVerify b s else startPatch b s

/-! ## Return from FAULTED (R23, R129, R130) -/

/-- What a return from FAULTED with link-alive true places: CLOSE, WAKE, DARK as they are needed (R129). -/
def returnPlacements (b : Bay) (s : State) : State :=
  if (s.port b).linkAlive then placeDark b (placeWake b (placeClose b s)) else s

/-- The sequencer leaves HALTED (R130): a section still held is awaited in CLOSING, otherwise it goes on at its cursor. -/
def resumeTransfer (b : Bay) (s : State) : State :=
  if (s.port b).openSection.isSome then s.setSeq b { s.seq b with phase := .closing } else nextSection b s

/-- The restart point of a RUNNING bay by its stage (R23). -/
def restartStage (b : Bay) (s : State) : State :=
  match (s.bay b).job with
  | none => s
  | some j =>
    match j.stage with
    | .region => placeRegion b s
    | .measure => startPatch b (s.modJob b (fun j => { j with overtime := 0 }))
    | .verify => startPatch b (s.modJob b (fun j => { j with overtime := 0 }))
    | .solve => s.setSolve b (some j.solveKind)
    | .transfer => resumeTransfer b s
    | .keys => nextKey b s
    | .finish => place b (bareReq .finish .work) s

/-- The attach timer starts at 30 s (R4). -/
def startAttach (b : Bay) (s : State) : State :=
  s.setBay b { s.bay b with attachTimer := some (s.now + ms Config.attachMs) }

/-- The restart point by the state returned to (R23). -/
def restart (b : Bay) (s : State) : State :=
  match (s.bay b).state with
  | .attaching =>
    let s := startAttach b (s.setPoller b { s.poller b with helloOut := false, helloAnswered := true })
    place b (bareReq .identify .work) s
  | .running => restartStage b s
  | .parked | .empty | .ready | .tunnel | .faulted | .stopped => s

/-! ## Entry to EMPTY and removal (R28, R35) -/

/-- Every entry to EMPTY sets WATCH and time empty 0 (R35); the scheduled poll stays. HELLO outstanding is no, the HELLO being
abandoned (R30, R38); HELLO answered is set to no here already, the model's choice: R36 sets it at the next entry to ATTACHING
(log entry 41). -/
def pollerEmpty (b : Bay) (s : State) : State :=
  s.setPoller b { s.poller b with
    level := .watch, emptyTime := .start s.now, helloOut := false, helloAnswered := false }

/-- A bay's record emptied apart from the bay number and the query counters, in a state (R1, R28). -/
def BayRec.emptied (r : BayRec) (st : BayState) : BayRec :=
  { BayRec.reset with
    state := st, discarded := r.discarded, adjustments := r.adjustments, overtimes := r.overtimes,
    requests := r.requests }

/-- References of a job closed LOST end (R159); its job fields are emptied by the caller. -/
def dropOpenRefs (b : Bay) (s : State) : State := if (s.bay b).jobOpen then s.modRefs b (fun n => n - 1) else s

/-- A removal (R28). -/
def removeSet (b : Bay) (s : State) : State :=
  let r := s.bay b
  let s := dropOpenRefs b (removalCleanup b s)
  let s := s.setSeq b Sequencer.reset
  let s := s.setArea b Area.reset
  let s := pollerEmpty b (s.setBay b ((s.bay b).emptied .empty))
  placeNotice (.removed b r.serial r.jobOpen) s

/-- A HALTED transfer whose outstanding request has ended or been abandoned returns to IDLE (R148, R153). -/
def endHalted (b : Bay) (s : State) : State := if (s.xfer b).phase = .halted then idleXfer b s else s

/-- The contact seen open in ATTACHING: the bay returns to EMPTY without notice (R5, R38). A request left outstanding from
before a RELEASE is abandoned, which ends a HALTED key transfer (R43, R148). The bay's area and the sequencer's cursors and counts
stay as a RELEASE left them, the model's choice: R28 leaves this opening to R5, which names neither (log entry 42). -/
def leaveAttaching (b : Bay) (s : State) : State :=
  endHalted b (pollerEmpty b ((clearPort b s).setBay b ((s.bay b).emptied .empty)))

end Sys2Proof.Machine
end

