-- ==== Sys2Proof/Machine/BayEvents.lean ====
section
/-! DEFINITION. The events at a bay and its set port: polls, timers, the ends of set service requests, keep-alive and lapse
(chapters 1, 2, 3, 7, 8). An expiry whose timer has not expired is no event and changes nothing (log entry 2). -/

namespace Sys2Proof.Machine

open Sys2Proof
open Host (Outcome)

/-! ## Polls (R31 to R41) -/

/-- Poll period of a level, in ticks (R32). -/
def levelPeriod : PollLevel → Nat
  | .watch => ms 100
  | .doze1 => ms 500
  | .doze2 => ms 2000
  | .doze3 => ms 10000

/-- The level that follows and the downshift time in ticks (R32); DOZE3 is the last. -/
def downshiftOf (p : Params) : PollLevel → Option (PollLevel × Nat)
  | .watch => some (.doze1, sec p.watchDown)
  | .doze1 => some (.doze2, sec p.doze1Down)
  | .doze2 => some (.doze3, sec p.doze2Down)
  | .doze3 => none

/-- Period to the next poll from the state in force after a poll (R31); none in PARKED. -/
def pollPeriod (st : BayState) (level : PollLevel) : Option Nat :=
  match st with
  | .empty => some (levelPeriod level)
  | .parked => none
  | .attaching | .ready | .running | .tunnel | .faulted | .stopped => some (ms 100)

/-- A closure seen in EMPTY: ATTACHING at WATCH, the attach timer starts, HELLO polling begins (R4, R33, R36). -/
def arrive (b : Bay) (s : State) : State :=
  let s := s.setPoller b { s.poller b with
    level := .watch, emptyTime := (s.poller b).emptyTime.pause s.now, helloOut := false, helloAnswered := false }
  startAttach b (s.setBay b { s.bay b with state := .attaching })

/-- Step 2 of a poll: a closure or opening is reported and acted on (R41). -/
def reportContact (b : Bay) (closed : Bool) (s : State) : State :=
  match (s.bay b).state with
  | .empty => if closed then arrive b s else s
  | .attaching => if closed then s else leaveAttaching b s
  | .ready | .running | .tunnel | .faulted | .stopped => if closed then s else removeSet b s
  | .parked => s

/-- Step 3: one downshift at a poll that sees the contact open in EMPTY (R34). -/
def downshift (b : Bay) (s : State) : State :=
  match downshiftOf s.link.params (s.poller b).level with
  | none => s
  | some (level, time) =>
    match (s.poller b).emptyTime.value s.now with
    | none => s
    | some t =>
      if time ≤ t then s.setPoller b { s.poller b with level := level, emptyTime := .start s.now } else s

/-- Step 4: HELLO is sent in ATTACHING when none is outstanding and none has been answered (R36). -/
def helloAtPoll (b : Bay) (s : State) : State :=
  if (s.bay b).state = .attaching ∧ (s.poller b).helloOut = false ∧ (s.poller b).helloAnswered = false then
    place b (bareReq .hello .work) (s.setPoller b { s.poller b with helloOut := true })
  else s

/-- Step 5: the next poll is scheduled (R31). -/
def schedulePoll (b : Bay) (s : State) : State :=
  s.setPoller b { s.poller b with
    next := (pollPeriod (s.bay b).state (s.poller b).level).map (fun d => s.now + d) }

/-- One poll with its sample, steps 2 to 5 of R41. -/
def pollBay (b : Bay) (closed : Bool) (s : State) : State :=
  let wasEmpty := decide ((s.bay b).state = .empty)
  let s := reportContact b closed s
  let s := if wasEmpty && !closed then downshift b s else s
  schedulePoll b (if closed then helloAtPoll b s else s)

/-- POLL (R31). -/
def execPoll (b : Bay) (closed : Bool) (s : State) : Outcome State Fault Refusal :=
  .next (if expired s.now (s.poller b).next then pollBay b closed s else s)

/-! ## Attach and settle timers -/

/-- ATTACH_TIMER_EXPIRY (R5). -/
def execAttachTimerExpiry (b : Bay) (s : State) : Outcome State Fault Refusal :=
  .next (if expired s.now (s.bay b).attachTimer then
      raiseFault b .attachTimeout 0 false (s.setBay b { s.bay b with attachTimer := none })
    else s)

/-- The bay is RUNNING in a stage that shows patches. -/
def BayRec.showsPatches (r : BayRec) : Bool := r.runningIn .measure || r.runningIn .verify

/-- SETTLE_TIMER_EXPIRY: the bay places a capture queue entry (R12, step 4). -/
def execSettleTimerExpiry (b : Bay) (s : State) : Outcome State Fault Refusal :=
  .next (if expired s.now (s.bay b).settleTimer then
      let s := s.setBay b { s.bay b with settleTimer := none }
      if (s.bay b).showsPatches then placeEntry b s else s
    else s)

/-! ## Ends of set service requests -/

/-- A refusal where no verdict rule applies (R21, R47). -/
def refusedFault (b : Bay) (code : Byte) (s : State) : State := raiseFault b .setRefused code.toNat false s

/-- The timeout of a request (R46). -/
def silentFault (b : Bay) (s : State) : State := raiseSilent b .setSilent s

/-- HELLO outstanding once a HELLO has ended: yes only for a newer HELLO that waits in the queue (R30, log entry 13). -/
def helloEnded (b : Bay) (s : State) : State :=
  s.setPoller b { s.poller b with helloOut := (s.port b).queue.any PortReq.isHello }

/-- The bay stands FAULTED by the expiry of its attach timer: a HELLO left outstanding is the one of R38. -/
def BayRec.attachFaulted (r : BayRec) : Bool := decide (r.state = .faulted) && decide (r.faults.head? = some .attachTimeout)

/-- The set has answered a HELLO OK: HELLO outstanding no, HELLO answered yes, a newer HELLO still queued withdrawn unsent
(R30, R37, log entry 13). -/
def helloTaken (b : Bay) (s : State) : State :=
  let s := withdraw b PortReq.isHello s
  s.setPoller b { s.poller b with helloOut := false, helloAnswered := true }

/-- The end of a HELLO (R37, R38, R48). Answered OK in ATTACHING it brings link-alive up, and IDENTIFY out the first time; in
FAULTED it brings link-alive up only as the HELLO of R38. -/
def endHello (b : Bay) (e : ReqEnd) (s : State) : State :=
  match e with
  | .ok _ =>
    if (s.bay b).state = .attaching then
      if (s.poller b).helloAnswered then linkUp b (helloTaken b s)
      else place b (bareReq .identify .work) (linkUp b (helloTaken b s))
    else if (s.bay b).attachFaulted then linkUp b (helloTaken b s)
    else helloTaken b s
  | .refused _ => helloEnded b s
  | .timedOut => if (s.bay b).state = .attaching then helloEnded b s else silentFault b (helloEnded b s)

/-- An identity taken: the fields are written, the attach timer stops, READY is entered, the probe's step seeded field
becomes no, IDENTIFIED goes out (R5, R78). -/
def identified (b : Bay) (i : Identity) (s : State) : State :=
  let s := s.setBay b { s.bay b with identity := some i, attachTimer := none, state := .ready }
  bayNotice b (.identified b i) (s.setProbe b { s.probe b with seeded := false })

/-- The end of an IDENTIFY (R5); one left outstanding through a fault writes no identity. -/
def endIdentify (b : Bay) (o : Owner) (e : ReqEnd) (s : State) : State :=
  match e with
  | .ok body =>
    if o = .work ∧ (s.bay b).state = .attaching then
      match parseIdentity body with
      | some i => identified b i s
      | none => refusedFault b 0 s
    else s
  | .refused code => refusedFault b code s
  | .timedOut => silentFault b s

/-- The keep-alive clock restarts at the end of a KEEP, while keep-alive runs (R48, R51). -/
def restartKeepClock (b : Bay) (s : State) : State :=
  if (s.port b).keepAliveRuns then s.setPort b { s.port b with keepClock := .start s.now, keepTaken := none } else s

/-- The end of a KEEP (R51). -/
def endKeep (b : Bay) (e : ReqEnd) (s : State) : State :=
  match e with
  | .ok _ => restartKeepClock b s
  | .refused code => raiseFault b .setRefused code.toNat true (restartKeepClock b s)
  | .timedOut => silentFault b s

/-- HOLD answered OK: HELD, both clocks stop, a KEEP due is no longer due (R55). -/
def enterHeld (b : Bay) (s : State) : State :=
  s.setPort b { s.port b with
    hold := .held, keepClock := .stopped, lapseClock := .stopped, keepDue := false, keepTaken := none, wakePending := false }

/-- The end of a HOLD (R55, R56). -/
def endHold (b : Bay) (e : ReqEnd) (s : State) : State :=
  match e with
  | .ok _ =>
    if (s.port b).hold = .entering then
      if (s.port b).wakePending then place b (bareReq .wake .cleanup) (enterHeld b s) else enterHeld b s
    else s
  | .refused code =>
    let s := if (s.port b).hold = .entering then s.setPort b { s.port b with hold := .none, wakePending := false } else s
    refusedFault b code s
  | .timedOut => silentFault b s

/-- The end of a WAKE (R55, R56). -/
def endWake (b : Bay) (e : ReqEnd) (s : State) : State :=
  match e with
  | .ok _ =>
    if (s.port b).hold = .waking then
      onAwake b (s.setPort b { s.port b with
        hold := .none, keepClock := .start s.now, keepTaken := none, lapseClock := .start s.now })
    else s
  | .refused code =>
    let s := if (s.port b).hold = .waking then s.setPort b { s.port b with hold := .held } else s
    refusedFault b code s
  | .timedOut => silentFault b s

/-- The settle timer starts at the panel class's settle time (R12, step 3; R158). -/
def startSettle (b : Bay) (s : State) : State :=
  match s.bayClass b with
  | none => s
  | some c => s.setBay b { s.bay b with settleTimer := some (s.now + ms c.settle) }

/-- The end of a SHOW (R12, R71). -/
def endShow (b : Bay) (o : Owner) (e : ReqEnd) (s : State) : State :=
  match e with
  | .ok _ => if o = .work ∧ (s.bay b).showsPatches = true then startSettle b s else s
  | .refused code => refusedFault b code s
  | .timedOut => silentFault b s

/-- The end of a DARK: it clears the showing flag; the stage's own DARK finishes the patch, a revocation's DARK lets a granted
SHOW go (R12 step 6, R71, R129). -/
def endDark (b : Bay) (o : Owner) (e : ReqEnd) (s : State) : State :=
  match e with
  | .ok _ =>
    let s := s.setBay b { s.bay b with showing := false }
    match o with
    | .work => if (s.bay b).showsPatches then finishPatch b s else s
    | .restart =>
      if (s.bay b).showPending then placeShow b (s.setBay b { s.bay b with showPending := false }) else s
    | .cleanup | .orphan => s
  | .refused code => refusedFault b code s
  | .timedOut => silentFault b s

/-- The end of a SET REGION (R11). -/
def endRegion (b : Bay) (o : Owner) (e : ReqEnd) (s : State) : State :=
  let mine := decide (o = .work) && (s.bay b).runningIn .region
  match e with
  | .ok _ => if mine then enterMeasure b s else s
  | .refused code => if mine then endJob b .rejectRegion code.toNat s else refusedFault b code s
  | .timedOut => silentFault b s

/-- The end of a FINISH (R18): answered OK, the set has left service mode and link-alive goes false (R48); refused, the lapse
clock resumes (R50) and is compared with the deadline after the port's next choice (R52, R53; DESIGN CHOICE, log entry 45). -/
def endFinish (b : Bay) (o : Owner) (e : ReqEnd) (s : State) : State :=
  let mine := decide (o = .work) && (s.bay b).runningIn .finish
  match e with
  | .ok _ => if mine then endJob b .pass 0 (linkDown b s) else linkDown b s
  | .refused code =>
    let s := s.setPort b { s.port b with lapseClock := (s.port b).lapseClock.resume s.now }
    if mine then endJob b .rejectSet code.toNat s else refusedFault b code s
  | .timedOut => silentFault b s

/-! ### Map transfer (R122 to R131) -/

/-- Zone count of the bay's map frame. -/
def frameZones (s : State) (b : Bay) : Nat :=
  match (s.area b).frame with
  | none => 0
  | some f => f.cols * f.rows

/-- The section the part held open is closed; a sequencer waiting in CLOSING goes on (R130). -/
def sectionReleased (b : Bay) (s : State) : State :=
  if (s.bay b).runningIn .transfer && decide ((s.seq b).phase = .closing) then nextSection b s else s

/-- The sequencer places burst k of the section at its cursor (R122). -/
def placeBurst (b : Bay) (k : Nat) (s : State) : State :=
  let q := s.seq b
  place b (burstReq q.sec k (sectionCells s b q.sec)) (s.setSeq b { q with phase := .bursting, burst := k })

/-- The check value of a finished section is compared (R124). -/
def compareSection (b : Bay) (got : Nat) (s : State) : State :=
  let q := s.seq b
  if got = (expectedCheck (sectionCells s b q.sec)).toNat then
    let o := if get12 q.rewrites q.sec = 0 then SectionOutcome.written else SectionOutcome.rewritten
    nextSection b ((setOutcome b q.sec o s).setSeq b { q with sec := q.sec + 1 })
  else
    let s := setOutcome b q.sec .incomplete s
    if get12 q.rewrites q.sec = 0 then
      openAtCursor b (s.setSeq b { q with rewrites := set12 q.rewrites q.sec 1 })
    else endJob b .rejectSet q.sec s

/-- The sequencer acts on an answer as its own: the request is the stage's and the bay RUNNING in TRANSFER. -/
def seqActs (s : State) (b : Bay) (o : Owner) : Bool := decide (o = .work) && (s.bay b).runningIn .transfer

/-- OPENED comes after a cleanup: the CLOSE queued behind the OPEN SECTION is sent next, which records the section PARTIAL (R26,
R127; log entry 8). -/
def openedLate (b : Bay) (s : State) : State :=
  if (s.port b).queue.any PortReq.isClose then markOpenPartial b s else s

/-- The end of an OPEN SECTION (R54, R122, R126, R127). -/
def endOpen (b : Bay) (o : Owner) (e : ReqEnd) (s : State) : State :=
  match e with
  | .ok _ => if seqActs s b o then placeBurst b 0 s else openedLate b s
  | .refused code => refusedFault b code (closeRecord b s)
  | .timedOut => silentFault b s

/-- The value two bytes of an answer carry. -/
def value16 : List Byte → Nat
  | a :: b :: _ => nat16 a b
  | _ => 0

/-- The value four bytes of an answer carry. -/
def value32 : List Byte → Nat
  | a :: b :: c :: d :: _ => nat32 a b c d
  | _ => 0

/-- The end of BURST k of a section (R122, R126, R127). -/
def endBurst (b : Bay) (o : Owner) (id k : Nat) (last : Bool) (e : ReqEnd) (s : State) : State :=
  match e with
  | .ok body =>
    if last then
      let s := setConfirmed b id (frameZones s b) (closeRecord b s)
      if seqActs s b o then compareSection b (value16 body) s else sectionReleased b s
    else
      let s := setConfirmed b id (64 * (k + 1)) s
      if seqActs s b o then placeBurst b (k + 1) s else s
  | .refused code => refusedFault b code s
  | .timedOut => silentFault b s

/-- The end of a CLOSE SECTION (R128, R130). -/
def endClose (b : Bay) (e : ReqEnd) (s : State) : State :=
  match e with
  | .ok _ => sectionReleased b (closeRecord b s)
  | .refused code => refusedFault b code s
  | .timedOut => silentFault b s

/-- APPLY MAP answered OK makes a frame in WRITING WRITTEN (R114, R125). -/
def frameWritten (b : Bay) (s : State) : State :=
  match (s.area b).frame with
  | none => s
  | some f => if f.state = .writing then setFrameState b .written s else s

/-- The end of an APPLY MAP (R125, R127, R130). -/
def endApply (b : Bay) (o : Owner) (e : ReqEnd) (s : State) : State :=
  match e with
  | .ok _ =>
    let s := frameWritten b s
    if seqActs s b o then enterVerify b (idleSeq b s) else s
  | .refused code => refusedFault b code s
  | .timedOut => silentFault b s

/-! ### Key transfer (R150 to R153) -/

/-- The record of the bay's transfer. -/
def xferRecord (s : State) (b : Bay) : Option KeyRec :=
  match (s.xfer b).keyId with
  | none => none
  | some id => s.stock.find id

/-- A failed transfer: the record is VOIDED with the bay's serial, KEY VOIDED is queued, and the bay counts the attempt
(R17, R152). -/
def failTransfer (b : Bay) (reason : VoidReason) (s : State) : State :=
  match xferRecord s b with
  | none => idleXfer b s
  | some k =>
    let serial := some (s.bay b).serial
    let s := idleXfer b (bayNotice b (voidNotice b k serial reason) (voidRecord k.keyId serial reason s))
    let s := forgetKey b s
    match (s.bay b).job with
    | none => s
    | some j =>
      if j.attempts = 0 then askReservation b (s.modJob b (fun j => { j with attempts := 1 }))
      else endJob b .rejectKey k.cls s

/-- A matching STORED: the record is BOUND to the bay's set serial, its blob erased, KEY BOUND queued, and the bay goes on to
its next class (R17, R151). -/
def bindKey (b : Bay) (s : State) : State :=
  match xferRecord s b with
  | none => idleXfer b s
  | some k =>
    let serial := (s.bay b).serial
    let s := s.setStock (s.stock.modify k.keyId (KeyRec.bind serial))
    let s := idleXfer b (bayNotice b (.keyBound k.keyId k.cls k.batch b serial) s)
    nextKey b (s.modJob b (fun j => { j with keyId := none, attempts := 0, keyCursor := j.keyCursor + 1 }))

/-- The transfer acts on an answer as its own. -/
def xferActs (s : State) (b : Bay) (o : Owner) : Bool := decide (o = .work) && (s.bay b).runningIn .keys

/-- The next chunk, or KEY END after the last (R150). -/
def nextChunk (b : Bay) (k : Nat) (last : Bool) (s : State) : State :=
  match xferRecord s b with
  | none => s
  | some r =>
    let x := s.xfer b
    let s := s.setXfer b { x with cursor := k + 1, phase := if last then .ending else .chunks }
    place b (if last then keyEndReq r.cls x.chunks else chunkReq r.cls (k + 1) x.chunks (r.blob.getD [])) s

/-- The end of STORE KEY chunk k (R150, R152, R153). -/
def endChunk (b : Bay) (o : Owner) (k : Nat) (last : Bool) (e : ReqEnd) (s : State) : State :=
  match e with
  | .ok _ => if xferActs s b o then nextChunk b k last s else endHalted b s
  | .refused code =>
    if xferActs s b o then failTransfer b (.setRefused code) s else refusedFault b code (endHalted b s)
  | .timedOut => silentFault b (endHalted b s)

/-- The end of a KEY END (R151 to R153). -/
def endKeyEnd (b : Bay) (o : Owner) (e : ReqEnd) (s : State) : State :=
  match e with
  | .ok body =>
    if xferActs s b o then
      if (xferRecord s b).map (fun k => k.check.toNat) = some (value32 body) then bindKey b s
      else failTransfer b .storedMismatch s
    else endHalted b s
  | .refused code =>
    if xferActs s b o then failTransfer b (.setRefused code) s else refusedFault b code (endHalted b s)
  | .timedOut => silentFault b (endHalted b s)

/-! ### The end of any request -/

/-- The end of an ended request is handed to its owner (R44). A forwarded request that times out is replied first (R59). -/
def endRequest (b : Bay) (r : PortReq) (e : ReqEnd) (s : State) : State :=
  match r.what with
  | .hello => endHello b e s
  | .identify => endIdentify b r.owner e s
  | .keep => endKeep b e s
  | .hold => endHold b e s
  | .wake => endWake b e s
  | .show => endShow b r.owner e s
  | .dark => endDark b r.owner e s
  | .setRegion => endRegion b r.owner e s
  | .storeKey k last => endChunk b r.owner k last e s
  | .keyEnd => endKeyEnd b r.owner e s
  | .openSection _ => endOpen b r.owner e s
  | .burst id k last => endBurst b r.owner id k last e s
  | .closeSection _ => endClose b e s
  | .applyMap => endApply b r.owner e s
  | .finish => endFinish b r.owner e s
  | .forwarded _ =>
    match e with
    | .timedOut => silentFault b (replyPass b .badState [] s)
    | .ok _ => s
    | .refused _ => s

/-- The outstanding request has ended. -/
def clearOutstanding (b : Bay) (s : State) : State := s.setPort b { s.port b with outstanding := none }

/-- An answer of the outstanding request's kind is taken: a forwarded request's answer goes into the TUNNEL PASS reply as the
set sent it, a frame of its kind alone included (R59, log entry 21), every other end to its owner; then the port chooses its next
request (R44). DESIGN CHOICE, log entry 45: where the end lets a paused lapse clock resume at or above a deadline shortened
meanwhile (R52) and a KEEP is due, the KEEP goes out in this step and no lapse is taken; R53 leaves open which comes first. DESIGN
CHOICE, log entry 48: a forwarded DARK answered OK leaves a showing flag that stands as it is; R59 speaks of a forwarded SHOW only. -/
def takeAnswer (b : Bay) (r : PortReq) (answer : List Byte) (s : State) : State :=
  let s := clearOutstanding b s
  let s := match r.what with
    | .forwarded k => replyPass b .ok (byteOf b.val :: k :: answer) s
    | .hello | .identify | .keep | .hold | .wake | .show | .dark | .setRegion | .storeKey _ _ | .keyEnd
    | .openSection _ | .burst _ _ _ | .closeSection _ | .applyMap | .finish =>
      endRequest b r (judgeAnswer r.what answer) s
  pump b s

/-- A received set frame is the answer to the outstanding request, or is discarded (R44). -/
def receiveSet (b : Bay) (frame : List Byte) (s : State) : State :=
  match (s.port b).outstanding, openFrame setStart 1012 frame with
  | some o, some (k :: answer) => if k = o.req.what.kind then takeAnswer b o.req answer s else s
  | _, _ => s

/-- SET_ANSWER_RECEIVED (R44). -/
def execSetAnswerReceived (b : Bay) (frame : List Byte) (s : State) : Outcome State Fault Refusal :=
  .next (receiveSet b frame s)

/-- SET_REQUEST_TIMEOUT (R46). -/
def execSetRequestTimeout (b : Bay) (s : State) : Outcome State Fault Refusal :=
  .next (match (s.port b).outstanding with
    | none => s
    | some o => if o.deadline ≤ s.now then pump b (endRequest b o.req .timedOut (clearOutstanding b s)) else s)

/-! ## Keep-alive and lapse (R49, R50) -/

/-- Keep-alive runs and its clock reads the interval or more. -/
def keepReached (s : State) (b : Bay) : Bool :=
  (s.port b).keepAliveRuns && (s.port b).keepClock.reached s.now (ms s.link.params.keepInterval)

/-- The clock's reaching of an interval has been taken: a KEEP fell due when it read that much or more (log entry 22). -/
def Port.keepWasTaken (p : Port) (interval : Nat) : Bool :=
  match p.keepTaken with
  | none => false
  | some r => decide (interval ≤ r)

/-- A KEEP falls due now: the running clock has reached the interval, and this has not been taken yet (R49). -/
def keepFallsDue (s : State) (b : Bay) : Bool :=
  keepReached s b && !(s.port b).keepWasTaken (ms s.link.params.keepInterval)

/-- KEEP_DUE (R49). -/
def execKeepDue (b : Bay) (s : State) : Outcome State Fault Refusal :=
  .next (if keepFallsDue s b then pump b (makeKeepDue b s) else s)

/-- A lapse is to be taken: the running lapse clock has reached the service deadline (R50). A clock that has resumed is compared
here, after the step that resumed it (R52; DESIGN CHOICE, log entry 45). -/
def lapseReached (s : State) (b : Bay) : Bool :=
  (s.port b).keepAliveRuns && (s.port b).lapseClock.reached s.now (ms s.link.params.serviceDeadline)

/-- A lapse: link-alive goes false and the bay faults with SERVICE_LAPSED (R50). -/
def takeLapse (b : Bay) (s : State) : State := raiseSilent b .serviceLapsed s

/-- LAPSE (R50). -/
def execLapse (b : Bay) (s : State) : Outcome State Fault Refusal :=
  .next (if lapseReached s b then takeLapse b s else s)

end Sys2Proof.Machine
end

