-- ==== Sys2Proof/Machine/GovEvents.lean ====
section
/-! DEFINITION. The events of the governor, the capture engine and the solver (chapters 4, 5, 6). -/

namespace Sys2Proof.Machine

open Sys2Proof
open Host (Outcome)

/-! ## Governor -/

/-- HEAD_TIMER_EXPIRY: the head is granted (R67). -/
def execHeadTimerExpiry (s : State) : Outcome State Fault Refusal :=
  .next (if expired s.now s.gov.headTimer then headChanged s else s)

/-- Steps 2 of R71: a SHOW not yet sent is withdrawn; otherwise DARK is placed, and the answer to a SHOW still outstanding
will start no settle timer. -/
def darkenRevoked (b : Bay) (s : State) : State :=
  if (s.port b).queue.any PortReq.isShow then withdraw b PortReq.isShow s
  else if (s.bay b).showPending then s.setBay b { s.bay b with showPending := false }
  else
    let s := if (s.port b).outIs PortReq.isShow then orphanOutstanding b s else s
    place b (bareReq .dark .restart) s

/-- The overtime count of the patch in work. -/
def overtimeCount (r : BayRec) : Nat :=
  match r.job with
  | none => 0
  | some j => j.overtime

/-- A bay told of a revocation restarts its patch, or faults with DRIVE_OVERTIME on the third (R13, R71). -/
def takeRevocation (b : Bay) (s : State) : State :=
  let s := s.setBay b { s.bay b with settleTimer := none }
  let s := withdrawEntry b (darkenRevoked b s)
  let s := s.setBay b { s.bay b with overtimes := bump (s.bay b).overtimes }
  if overtimeCount (s.bay b) < 2 then
    requestAdmission b (s.modJob b (fun j => { j with overtime := j.overtime + 1 }))
  else raiseFault b .driveOvertime 0 false s

/-- A bay's held admission has reached its hold limit (R70). -/
def overtimeReached (s : State) (b : Bay) : Bool := s.gov.held.any (fun h => decide (h.bay = b) && decide (h.expires ≤ s.now))

/-- OVERTIME_EXPIRY (R70). -/
def execOvertimeExpiry (b : Bay) (s : State) : Outcome State Fault Refusal :=
  .next (if overtimeReached s b then takeRevocation b (releaseAdmission b s) else s)

/-- A grant is 10,000 ms old (R72). -/
def grantOld (now : Nat) (g : Grant) : Bool := decide (g.time + ms Config.historyMs ≤ now)

/-- GRANT_HISTORY_EXPIRY: every grant 10,000 ms old is dropped from the history; the last grant per rail is kept (R72). -/
def execGrantHistoryExpiry (s : State) : Outcome State Fault Refusal :=
  .next (s.setGov { s.gov with history := s.gov.history.filter (fun g => !grantOld s.now g) })

/-! ## Capture engine -/

/-- A probe's warm-up has run its full time (R77). -/
def warmUpOver (s : State) (b : Bay) : Bool :=
  match (s.probe b).warm with
  | .warming t => decide (t ≤ s.now)
  | .warm => false
  | .stopped => false

/-- WARM_UP_EXPIRY: the probe is WARM and an IDLE engine makes its choice (R77, R83). -/
def execWarmUpExpiry (b : Bay) (s : State) : Outcome State Fault Refusal :=
  .next (if warmUpOver s b then chooseEntry (s.setProbe b { s.probe b with warm := .warm }) else s)

/-- A failed capture is ended (R93): the entry leaves the queue, the engine is IDLE, the bay told faults with the cause if the
report bears its number, and the engine chooses. -/
def failCapture (e : Entry) (cause : FaultCause) (s : State) : State :=
  let s := endCapture e.bay (clearProbeReq e.bay s)
  let s := if (s.bay e.bay).entry = some e.number then
      raiseFault e.bay cause 0 false (s.setBay e.bay { s.bay e.bay with entry := none })
    else s
  chooseEntry s

/-- The capture goes on or fails. -/
def finishDelivery (e : Entry) : CaptureStep → State
  | .goesOn s => s
  | .fails cause s => failCapture e cause s

/-- A message on a probe port is the delivery of the outstanding request, or is discarded (R81, R97). -/
def receiveProbe (b : Bay) (frame : List Byte) (s : State) : State :=
  match (s.probe b).outstanding, s.engine.current, (openFrame probeStart 1752 frame).bind parseDelivery with
  | some o, some c, some d =>
    if answersProbe o d ∧ c.entry.bay = b then finishDelivery c.entry (onDelivery c d (clearProbeReq b s)) else s
  | _, _, _ => s

/-- PROBE_MESSAGE_RECEIVED (R81). -/
def execProbeMessageReceived (b : Bay) (frame : List Byte) (s : State) : Outcome State Fault Refusal :=
  .next (receiveProbe b frame s)

/-- A probe request has passed its timeout (R92). -/
def probeOverdue (s : State) (b : Bay) : Bool :=
  match (s.probe b).outstanding with
  | none => false
  | some o => decide (o.deadline ≤ s.now)

/-- PROBE_REQUEST_TIMEOUT: the fault flag is set and the capture fails with PROBE_SILENT (R92). -/
def execProbeRequestTimeout (b : Bay) (s : State) : Outcome State Fault Refusal :=
  .next (if probeOverdue s b then
      let s := s.setProbe b { s.probe b with outstanding := none, fault := true }
      match s.engine.current with
      | none => s
      | some c => if c.entry.bay = b then failCapture c.entry .probeSilent s else s
    else s)

/-! ## Solver -/

/-- The frame a solve's result writes: SOLVED, every outcome NOT_SENT (R105). -/
def SolveResult.frame (r : SolveResult) : MapFrame :=
  { state := .solved, cols := r.cols, rows := r.rows, sections := r.sections }

/-- The result is written into the map frame, and the rewrite counts and confirmed zones go to 0 (R105, R120). -/
def writeSolve (b : Bay) (r : SolveResult) (s : State) : State :=
  let s := s.setArea b { s.area b with frame := some r.frame }
  s.setSeq b { s.seq b with rewrites := Vector.replicate 12 0, confirmed := Vector.replicate 12 0 }

/-- Solve-done taken by a bay RUNNING in SOLVE (R14, R105). -/
def takeSolve (b : Bay) (k : SolveKind) (j : Job) (s : State) : State :=
  let r := runSolve k (s.area b) j.params
  let s := writeSolve b r s
  match r.reject with
  | some d => endJob b .rejectPanel d s
  | none =>
    enterTransfer b (match k with
      | .first => s
      | .resolve => s.modJob b (fun j => { j with pass := j.pass + 1 }))

/-- SOLVE_DONE: a solve in progress ends; a bay not RUNNING in SOLVE drops the result (R104, R105). -/
def execSolveDone (b : Bay) (s : State) : Outcome State Fault Refusal :=
  .next (match s.solve b with
    | none => s
    | some k =>
      let s := s.setSolve b none
      match (s.bay b).job with
      | none => s
      | some j => if (s.bay b).runningIn .solve then takeSolve b k j s else s)

end Sys2Proof.Machine
end

