-- ==== Sys2Proof/Machine/Replies.lean ====
section
/-! DEFINITION. The bodies of replies (R187, R190): what each accepted request reports after its status byte. Items whose
form R187 does not give are in the forms of log entry 17, absent items as log entry 19 says. -/

namespace Sys2Proof.Machine

open Sys2Proof

/-- A one-byte item. -/
def b1 (n : Nat) : List Byte := [byteOf n]

/-- A yes or no item. -/
def bFlag (b : Bool) : List Byte := [flagByte b]

/-- A one-byte code item, 255 when absent. -/
def bCode (n : Option Nat) : List Byte := [codeOr255 n]

/-- Time since start, in ms, wrapping at 4 bytes (R169). A fraction of a millisecond is dropped: DESIGN CHOICE, log entry 18. -/
def State.timeSinceStart (s : State) : Nat := s.now / Config.ticksPerMs % 4294967296

/-- An item for each bay, in bay order; the four bays are no list of R187 and have no count byte (log entry 17). -/
def eachBay (f : Bay → List Byte) : List Byte := allBays.flatMap f

/-! ## Station (R178, R179, R73, R84) -/

/-- IDENT: names, revision, sizes, capacities and the time since start (R178). -/
def identBody (s : State) : List Byte :=
  vendorName ++ partName ++ [revision] ++ be16 1024 ++ b1 4 ++ b1 32 ++ b1 4 ++ b1 16 ++ b1 8 ++ be16 Config.keyRecords ++
  be32 Config.blobBytes ++ be32 s.timeSinceStart

/-- The line link items of STATUS (R179). -/
def linkBody (l : Link) : List Byte :=
  b1 l.inBuf.length ++ b1 l.occupied ++ be16 l.lost ++ bFlag l.lostPending ++
  be16 l.errs.length ++ be16 l.errs.crc ++ be16 l.errs.brk ++ be16 l.errs.overrun

/-- The ten station parameters in the order of R180. -/
def Params.list (p : Params) : List Nat :=
  [p.watchDown, p.doze1Down, p.doze2Down, p.keepInterval, p.serviceDeadline, p.grantWindow, p.sameRail, p.crossRail,
   p.holdLimit, p.refInterval]

/-- The station items of STATUS (R179). -/
def stationBody (s : State) : List Byte := be32 s.timeSinceStart ++ s.link.params.list.flatMap be32

/-- The items of one bay in STATUS (R179). -/
def bayStatus (s : State) (b : Bay) : List Byte :=
  let r := s.bay b
  b1 r.state.code ++ bCode (r.origin.map BayState.code) ++ bCode (r.stage?.map Stage.code) ++
  b1 (s.poller b).level.code ++ bFlag (s.port b).linkAlive ++ b1 (s.port b).hold.code

/-- An age in its form. -/
def ageBytes (now t : Nat) : List Byte := timeBytes (some (ageMs now t))

/-- The time left to an instant in its form. -/
def leftBytes (now t : Nat) : List Byte := timeBytes (some (ageMs t now))

/-- The held set in bay order (R73). -/
def Governor.heldInOrder (g : Governor) : List Held := allBays.flatMap (fun b => g.held.filter (fun h => h.bay = b))

/-- The grants in the window ending now, newest first, at most four (R65, R73). -/
def windowGrants (g : Governor) (p : Params) (now : Nat) : List Grant :=
  (g.history.filter (fun x => decide (now < x.time + ms p.grantWindow))).take 4

/-- The governor items of STATUS (R73); a grant's rail is one byte, its code the model's choice (log entry 17). -/
def govBody (g : Governor) (p : Params) (now : Nat) : List Byte :=
  listBytes (fun w : Waiting => b1 w.bay.val ++ ageBytes now w.joined) g.queue ++
  timeBytes (g.headTimer.map (fun t => ageMs t now)) ++
  listBytes (fun h : Held => b1 h.bay.val ++ ageBytes now h.granted ++ leftBytes now h.expires) g.heldInOrder ++
  listBytes (fun x : Grant => b1 x.bay.val ++ b1 (railOf x.bay).code ++ ageBytes now x.time) (windowGrants g p now) ++
  timeBytes (g.lastA.map (ageMs now)) ++ timeBytes (g.lastB.map (ageMs now)) ++
  [p.grantWindow, p.sameRail, p.crossRail, p.holdLimit].flatMap be32

/-- The current entry's bay and patch and the counts of the current capture record (R84); a patch is one byte, its sheet row
number, the model's choice (log entry 17). -/
def currentBody : Option Current → List Byte
  | none => [255, 255, 0, 0, 0]
  | some c => b1 c.entry.bay.val ++ b1 c.entry.row ++ b1 c.exposures ++ b1 c.accepted.length ++ b1 c.discarded

/-- The time left of a warm-up; absent in WARM and STOPPED. -/
def WarmUp.left (now : Nat) : WarmUp → Option Nat
  | .warming t => some (ageMs t now)
  | .warm => none
  | .stopped => none

/-- One probe record in the field order of R76, without the two fields STATUS does not show; the reference factor takes two
bytes, the model's choice (log entry 17). -/
def probeBody (now : Nat) (p : Probe) : List Byte :=
  b1 p.warm.code ++ timeBytes (p.warm.left now) ++ b1 p.step ++ bFlag p.seeded ++ be16 p.factor ++ b1 p.count ++
  bFlag p.fault

/-- The capture engine items of STATUS (R179, R82, R84); a patch is one byte, its sheet row number, the model's choice (log entry
17). -/
def engineBody (e : Engine) (now : Nat) : List Byte :=
  b1 e.stateCode ++ currentBody e.current ++
  listBytes (fun x : Entry => b1 x.bay.val ++ b1 x.row ++ be16 x.number ++ bFlag (eligible e x)) e.queue ++
  eachBay (fun b => probeBody now (e.probes.get b))

/-- One profile slot in STATUS (R159). -/
def profileStatus (x : ProfileSlot) : List Byte :=
  bFlag x.content.isSome ++ b1 x.refs ++ (match x.content with
    | none => []
    | some p => tripleBytes p.region)

/-- One class slot in STATUS (R159). -/
def classStatus (x : ClassSlot) : List Byte :=
  bFlag x.content.isSome ++ b1 x.refs ++ (match x.content with
    | none => []
    | some c => b1 c.cols ++ b1 c.rows)

/-- The profile table items of STATUS: profile slots 0 to 15, class slots 1 to 8 (R159). -/
def tableBody (t : Table) : List Byte := t.profiles.toList.flatMap profileStatus ++ t.classes.toList.flatMap classStatus

/-- The key stock items of STATUS (R179). -/
def stockBody (k : Stock) : List Byte := be16 k.records.length ++ be32 (blobUsed k.records) ++ b1 k.waiting.length

/-- STATUS (R179). -/
def statusBody (s : State) : List Byte :=
  linkBody s.link ++ stationBody s ++ eachBay (bayStatus s) ++ govBody s.gov s.link.params s.now ++
  engineBody s.engine s.now ++ tableBody s.table ++ stockBody s.stock

/-! ## BAY QUERY (R29) -/

/-- The identity fields; absent ones are an empty serial, class id 255 and an empty list (log entry 19). -/
def identityBody : Option Identity → List Byte
  | none => [0, 255, 0]
  | some i => serialBytes i.serial ++ b1 i.classId ++ listBytes tripleBytes i.caps

/-- The job parameters in the order of R2. -/
def paramsBody (p : JobParams) : List Byte :=
  listBytes be16 p.levels ++ b1 p.samples ++ be16 p.target ++ be16 p.floorRatio ++ b1 p.tolerance ++ b1 p.iterLimit ++
  listBytes be16 p.mask

/-- Absent job parameters (log entry 19). -/
def noParams : JobParams :=
  { levels := [], samples := 0, target := 0, floorRatio := 0, tolerance := 0, iterLimit := 0, mask := [] }

/-- The job fields from the profile slot to the verdict, in the order of R1. -/
def jobBody : Option Job → List Byte
  | none => [255] ++ paramsBody noParams ++ [255, 0, 0, 0, 0, 0] ++ be32 0 ++ [255]
  | some j =>
    b1 j.slot ++ paramsBody j.params ++ b1 j.stage.code ++ b1 j.cursor ++ b1 j.overtime ++ b1 j.pass ++ b1 j.keyCursor ++
    b1 j.attempts ++ be32 (j.keyId.getD 0) ++ bCode (j.verdict.map Verdict.code)

/-- BAY QUERY (R29). -/
def queryBody (s : State) (b : Bay) : List Byte :=
  let r := s.bay b
  b1 r.state.code ++ bCode (r.origin.map BayState.code) ++ listBytes (fun c : FaultCause => b1 c.code) r.faults ++
  bFlag r.overflow ++ bFlag (s.port b).linkAlive ++ b1 (s.poller b).level.code ++ identityBody r.identity ++
  jobBody r.job ++ b1 (s.area b).frameCode ++ be16 r.discarded ++ be16 r.adjustments ++ be16 r.overtimes ++
  be16 r.requests

/-! ## SHEET READ and MAP READ (R115, R116, R190) -/

/-- A run of a list: from a start, at most a count, ending at the list's last item (R115). -/
def runOf {α : Type} (start count : Nat) (l : List α) : List α := (l.drop start).take count

/-- One reading in 3 bytes (R190). -/
def readingBytes (r : Reading) : List Byte := be16 r.lum ++ b1 r.flag.code

/-- A per-mille item; 65,535 for absent (R190). -/
def perMilleOr (n : Option Nat) : List Byte := be16 (n.getD 65535)

/-- SHEET READ of a filled row (R190). -/
def sheetBody (b : Bay) (row start count : Nat) (r : Row) : List Byte :=
  let run := runOf start count r.readings
  b1 b.val ++ b1 row ++ b1 r.cols ++ b1 r.rows ++ be16 start ++ be16 run.length ++
  be16 (countFlag .valid r.readings) ++ be16 (countFlag .saturated r.readings) ++ be16 (countFlag .dark r.readings) ++
  be16 (countFlag .masked r.readings) ++ perMilleOr r.uniformity ++ run.flatMap readingBytes

/-- One cell in 2 bytes: masked mark, four zero bits, gain (R190). -/
def mapCellBytes (c : Cell) : List Byte := be16 ((if c.masked then 32768 else 0) + c.gain)

/-- A solve summary (R190). -/
def summaryBody (m : Summary) : List Byte :=
  b1 m.kind.code ++ be32 m.target ++ be16 m.belowFloor ++ be16 m.beyondRange ++ perMilleOr m.predicted

/-- MAP READ of a section (R190). -/
def mapBody (b : Bay) (sec start count confirmed : Nat) (st : FrameState) (c : Section) : List Byte :=
  let run := runOf start count c.cells
  b1 b.val ++ b1 sec ++ b1 st.code ++ summaryBody c.summary ++ b1 c.outcome.code ++ be16 confirmed ++ be16 run.length ++
  run.flatMap mapCellBytes

/-! ## STOCK QUERY (R142) -/

/-- The set serial of a record; the empty text when absent (R135). -/
def KeyState.serial : KeyState → List Byte
  | .available => []
  | .reserved _ => []
  | .sending _ => []
  | .bound s => s
  | .voided s _ => s.getD []

/-- The void reason of a record, present in VOIDED (R135). -/
def KeyState.reason? : KeyState → Option VoidReason
  | .available => none
  | .reserved _ => none
  | .sending _ => none
  | .bound _ => none
  | .voided _ r => some r

/-- The refusal code of a record, present in VOIDED with reason SET_REFUSED (R135). -/
def VoidReason.code? : VoidReason → Option Nat
  | .preSendCheck => none
  | .storedMismatch => none
  | .setRefused c => some c.toNat
  | .cleanup => none

/-- The fields of R135 from the key ID to the state. -/
def recordHead (k : KeyRec) : List Byte :=
  be32 k.keyId ++ b1 k.cls ++ listBytes tripleBytes k.regions ++ be16 k.batch ++ be16 k.blobLen ++ be32 k.check.toNat ++
  seqBytes k.loadSeq ++ b1 k.state.code

/-- A record in a run: without set serial, refusal code and blob (R142); an absent bay is 255, the model's choice (log entry
19). -/
def recordInRun (k : KeyRec) : List Byte :=
  recordHead k ++ bCode (k.state.bay?.map Fin.val) ++ bCode (k.state.reason?.map VoidReason.code)

/-- A record asked for by its key ID: every field except the blob (R142); an absent bay is 255, the model's choice (log entry
19). -/
def recordBody (k : KeyRec) : List Byte :=
  recordHead k ++ bCode (k.state.bay?.map Fin.val) ++ serialBytes k.state.serial ++ bCode (k.state.reason?.map VoidReason.code) ++
  bCode (k.state.reason?.bind VoidReason.code?)

/-- How many records of a class are in the state with a code. -/
def countRecords (k : Stock) (cls code : Nat) : Nat :=
  k.records.countP (fun r => decide (r.cls = cls) && decide (r.state.code = code))

/-- STOCK QUERY counts (R142); blob memory used and free take four bytes each, the model's choice (log entry 17). -/
def countsBody (k : Stock) (now : Nat) : List Byte :=
  ((List.range 8).flatMap (fun c => (List.range 5).flatMap (fun st => be16 (countRecords k (c + 1) st)))) ++
  be16 k.records.length ++ be32 (blobUsed k.records) ++ be32 (Config.blobBytes - blobUsed k.records) ++
  seqBytes k.nextSeq ++
  listBytes (fun w : KeyWait => b1 w.bay.val ++ b1 w.cls ++ tripleBytes w.region ++ ageBytes now w.joined) k.waiting

/-- The records of a run: up to count at or above the start, in load order (R142). -/
def runRecords (k : Stock) (start count : Nat) : List KeyRec :=
  (k.records.filter (fun r => decide (start ≤ r.loadSeq))).take count

/-- The next start of a run: one above the last record returned, or the start itself (R142). -/
def nextStart (start : Nat) (rs : List KeyRec) : Nat :=
  match rs.getLast? with
  | none => start
  | some r => r.loadSeq + 1

/-- STOCK QUERY run (R142). -/
def runBody (k : Stock) (start count : Nat) : List Byte :=
  let rs := runRecords k start count
  listBytes recordInRun rs ++ seqBytes (nextStart start rs)

end Sys2Proof.Machine
end

