-- ==== Sys2Proof/Machine/Station.lean ====
section
/-! DEFINITION. How a request reaches its owning block (R174), and the station requests: IDENT, STATUS, CONFIGURE, RESET
(R178 to R182). -/

namespace Sys2Proof.Machine

open Sys2Proof
open Host (Outcome)

/-! ## Requests at their owner -/

/-- A request at dispatch: with an entry free, it is set aside for the reply; tag 0 is replied BAD_FIELD, any other request
goes to its owner (R174). With no entry free, and from a RESET FULL on, dispatch waits and nothing happens (R174, R182; log
entry 3). -/
def atOwner (kind tag : Nat) (owner : State → State) (s : State) : State :=
  if canDispatch s then
    if tag = 0 then placeReply kind tag .badField [] (setEntryAside s) else owner (setEntryAside s)
  else s

/-- A refusal reply: status code and no body (R174). -/
def refuse (kind tag : Nat) (st : Status) (s : State) : State := placeReply kind tag st [] s

/-- A reply OK with its body. -/
def accept (kind tag : Nat) (body : List Byte) (s : State) : State := placeReply kind tag .ok body s

/-- A request naming a bay: a bay number outside 0 to 3 is refused with BAD_FIELD (Overview, Bay-relative requests). -/
def withBay (kind tag bay : Nat) (f : Bay → State → State) (s : State) : State :=
  match bayOf bay with
  | none => refuse kind tag .badField s
  | some b => f b s

/-! ## IDENT and STATUS -/

/-- Request kind of IDENT (R186). -/
def identKind : Nat := 1

/-- IDENT at the line link (R178). -/
def reqIdent (tag : Nat) (s : State) : State := accept identKind tag (identBody s) s

/-- IDENT (R178). -/
def execIdent (tag : Nat) (s : State) : Outcome State Fault Refusal := .next (atOwner identKind tag (reqIdent tag) s)

/-- Request kind of STATUS (R186). -/
def statusKind : Nat := 2

/-- The counts STATUS sets to 0 once its body is formed (R179). -/
def Link.clearCounts (l : Link) : Link := { l with lost := 0, errs := { length := 0, crc := 0, brk := 0, overrun := 0 } }

/-- STATUS at the line link (R179). -/
def reqStatus (tag : Nat) (s : State) : State := accept statusKind tag (statusBody s) (s.setLink s.link.clearCounts)

/-- STATUS (R179). -/
def execStatus (tag : Nat) (s : State) : Outcome State Fault Refusal := .next (atOwner statusKind tag (reqStatus tag) s)

/-! ## CONFIGURE (R180, R52) -/

/-- Request kind of CONFIGURE (R186). -/
def configureKind : Nat := 3

/-- The value in force of a parameter, by its number. -/
def Params.get (p : Params) (number : Nat) : Nat :=
  match number with
  | 1 => p.watchDown
  | 2 => p.doze1Down
  | 3 => p.doze2Down
  | 4 => p.keepInterval
  | 5 => p.serviceDeadline
  | 6 => p.grantWindow
  | 7 => p.sameRail
  | 8 => p.crossRail
  | 9 => p.holdLimit
  | 10 => p.refInterval
  | _ => 0

/-- A parameter put in force, by its number. -/
def Params.put (p : Params) (number v : Nat) : Params :=
  match number with
  | 1 => { p with watchDown := v }
  | 2 => { p with doze1Down := v }
  | 3 => { p with doze2Down := v }
  | 4 => { p with keepInterval := v }
  | 5 => { p with serviceDeadline := v }
  | 6 => { p with grantWindow := v }
  | 7 => { p with sameRail := v }
  | 8 => { p with crossRail := v }
  | 9 => { p with holdLimit := v }
  | 10 => { p with refInterval := v }
  | _ => p

/-- The number is one of the table of R180. -/
def paramKnown (number : Nat) : Bool := decide (1 ≤ number ∧ number ≤ 10)

/-- The range and further check of each parameter (R180, R52, R72, R99). -/
def Params.admits (p : Params) (number v : Nat) : Bool :=
  match number with
  | 1 => decide (5 ≤ v ∧ v ≤ 600)
  | 2 => decide (10 ≤ v ∧ v ≤ 3600)
  | 3 => decide (60 ≤ v ∧ v ≤ 36000)
  | 4 => decide (200 ≤ v ∧ v ≤ 5000 ∧ v % 100 = 0 ∧ v + 500 ≤ p.serviceDeadline)
  | 5 => decide (1000 ≤ v ∧ v ≤ 10000 ∧ p.keepInterval + 500 ≤ v)
  | 6 => decide (400 ≤ v ∧ v ≤ 10000)
  | 7 => decide (v ≤ 2000 ∧ p.crossRail ≤ v)
  | 8 => decide (v ≤ 2000 ∧ v ≤ p.sameRail)
  | 9 => decide (1000 ≤ v ∧ v ≤ 10000)
  | 10 => decide (8 ≤ v ∧ v ≤ 255)
  | _ => false

/-- Some bay is RUNNING or TUNNEL. -/
def anyBusy (s : State) : Bool :=
  allBays.any (fun b => decide ((s.bay b).state = .running) || decide ((s.bay b).state = .tunnel))

/-- A new, shorter keep-alive interval: a running keep-alive clock at or above it makes a KEEP due, also where one was due or
sent before (R52). -/
def keepAtBay (s : State) (b : Bay) : State := if keepReached s b then pump b (makeKeepDue b s) else s

/-- A new, shorter service deadline: a running lapse clock at or above it takes a lapse (R52). -/
def lapseAtBay (s : State) (b : Bay) : State := if lapseReached s b then takeLapse b s else s

/-- What a new value does at once on the ports, in bay order (R52, log entry 15). -/
def configured (number old v : Nat) (s : State) : State :=
  if v < old then
    if number = 4 then allBays.foldl keepAtBay s
    else if number = 5 then allBays.foldl lapseAtBay s
    else s
  else s

/-- CONFIGURE at the line link (R180). -/
def reqConfigure (tag number v : Nat) (s : State) : State :=
  if !paramKnown number then refuse configureKind tag .badField s
  else if anyBusy s then refuse configureKind tag .badState s
  else if !s.link.params.admits number v then refuse configureKind tag .badField s
  else
    let old := s.link.params.get number
    configured number old v
      (accept configureKind tag (b1 number ++ be32 v) (s.setLink { s.link with params := s.link.params.put number v }))

/-- CONFIGURE (R180). -/
def execConfigure (tag number v : Nat) (s : State) : Outcome State Fault Refusal :=
  .next (atOwner configureKind tag (reqConfigure tag number v) s)

/-! ## RESET (R181, R182) -/

/-- Request kind of RESET (R186). -/
def resetKind : Nat := 4

/-- RESET FULL at the line link: its reply is placed and the reset waits for it to leave the line (R182). A QUEUED pass gets no
reply any more; its carried request stays in its port's queue and may be sent and counted until the reset takes effect, the model's
choice (log entry 24). -/
def reqResetFull (tag : Nat) (s : State) : State :=
  let s := accept resetKind tag [] s
  s.setLink { s.link with resetPending := true }

/-- RESET FULL (R182). -/
def execResetFull (tag : Nat) (s : State) : Outcome State Fault Refusal :=
  .next (atOwner resetKind tag (reqResetFull tag) s)

/-- The governor after every bay's claims are withdrawn; history, last grants and parameters stay (R74). -/
def Governor.resetBays (g : Governor) : Governor := { g with queue := [], headTimer := none, held := [] }

/-- The engine after every entry is withdrawn: IDLE, entry numbers from 1 again, probe records as they stand but for the
dropped request of the abandoned capture (R98). -/
def Engine.resetBays (e : Engine) : Engine :=
  { queue := [], lastNumber := 0, current := none,
    probes := match e.currentBay with
      | none => e.probes
      | some b => updAt e.probes b { e.probes.get b with outstanding := none } }

/-- A key record at RESET BAYS: RESERVED returns to AVAILABLE, SENDING is VOIDED at the serial of its bay (R156). -/
def KeyRec.resetBays (s : State) (k : KeyRec) : KeyRec :=
  match k.state with
  | .reserved _ => k.release
  | .sending b => k.void (some (s.bay b).serial) .cleanup
  | .available | .bound _ | .voided _ _ => k

/-- The stock at RESET BAYS (R156). -/
def resetStock (s : State) : Stock :=
  { s.stock with records := s.stock.records.map (KeyRec.resetBays s), waiting := [] }

/-- A bay's record at RESET BAYS: emptied, counters 0; a PARKED bay stays PARKED (R3). -/
def BayRec.resetBays (r : BayRec) : BayRec :=
  { BayRec.reset with state := if r.state = .parked then .parked else .empty }

/-- A bay's poller at RESET BAYS: that of a PARKED bay stays as it stood (R30). -/
def Poller.resetBays (p : Poller) (st : BayState) (now : Nat) : Poller :=
  if st = .parked then p
  else { level := .watch, emptyTime := .start now, next := some now, helloOut := false, helloAnswered := false }

/-- Step 2 of RESET BAYS: the removal-form cleanup of every bay, taken together (log entry 14), and the reset values of R3,
R30, R42, R74, R98, R117, R120, R148, R156, R167. -/
def resetAllBays (s : State) : State :=
  let s := allBays.foldl (fun s b => dropOpenRefs b s) s
  { s with
    gov := s.gov.resetBays, engine := s.engine.resetBays, stock := resetStock s,
    pollers := Vector.ofFn (fun b => (s.poller b).resetBays (s.bay b).state s.now),
    bays := Vector.ofFn (fun b => (s.bay b).resetBays),
    ports := Vector.replicate 4 Port.reset, seqs := Vector.replicate 4 Sequencer.reset,
    xfers := Vector.replicate 4 Xfer.reset, areas := Vector.replicate 4 Area.reset, solves := Vector.replicate 4 none }

/-- RESET BAYS at the line link: pending passes replied in bay order, the bays reset, the reply placed (R181). -/
def reqResetBays (tag : Nat) (s : State) : State :=
  accept resetKind tag [] (resetAllBays (allBays.foldl (fun s b => endPass b s) s))

/-- RESET BAYS (R181). -/
def execResetBays (tag : Nat) (s : State) : Outcome State Fault Refusal :=
  .next (atOwner resetKind tag (reqResetBays tag) s)

end Sys2Proof.Machine
end

