-- ==== Sys2Proof/Machine/BayRequests.lean ====
section
/-! DEFINITION. The requests to a bay (R6, R7, R23, R24, R27, R29). -/

namespace Sys2Proof.Machine

open Sys2Proof
open Host (Outcome)

/-! ## JOB START (R6) -/

/-- Request kind of JOB START (R186). -/
def jobStartKind : Nat := 8

/-- The job fields of an accepted JOB START (R6). -/
def newJob (slot : Nat) (p : JobParams) : Job :=
  { slot := slot, params := p, stage := .region, cursor := 0, overtime := 0, pass := 0, keyCursor := 0, attempts := 0,
    keyId := none, verdict := none, solveKind := .first }

/-- An accepted JOB START opens a job: fields written, references raised, the area emptied, RUNNING entered (R6, R159). -/
def openJob (b : Bay) (slot : Nat) (p : JobParams) (s : State) : State :=
  let s := s.setBay b { s.bay b with state := .running, job := some (newJob slot p) }
  (s.modRefs b (fun n => n + 1)).setArea b Area.reset

/-- JOB START at a bay, checks 2 to 4 of R6, then the acceptance: reply OK, STAGE for REGION, the REGION checks. -/
def startJob (tag : Nat) (slot : Nat) (args : JobArgs) (b : Bay) (s : State) : State :=
  if (s.bay b).state ≠ .ready then refuse jobStartKind tag .badState s
  else if (s.table.profile slot).isNone then refuse jobStartKind tag .unknownProfile s
  else if !(fillArgs args).inRange (maskZones (s.bayClass b)) then refuse jobStartKind tag .badField s
  else enterRegion b (stageNotice b (accept jobStartKind tag [] (openJob b slot (fillArgs args) s)))

/-- JOB START at its bay controller (R6); check 1 judges bay and slot together. -/
def reqJobStart (tag bay slot : Nat) (args : JobArgs) (s : State) : State :=
  withBay jobStartKind tag bay
    (fun b s => if slot < 16 then startJob tag slot args b s else refuse jobStartKind tag .badField s) s

/-- JOB START (R6). -/
def execJobStart (tag bay slot : Nat) (args : JobArgs) (s : State) : Outcome State Fault Refusal :=
  .next (atOwner jobStartKind tag (reqJobStart tag bay slot args) s)

/-! ## JOB ABORT (R27) -/

/-- Request kind of JOB ABORT (R186). -/
def jobAbortKind : Nat := 9

/-- Accepted JOB ABORT: reply OK, the notices of cleanup, STOPPED with verdict ABORTED, JOB DONE (R27, log entry 29). -/
def abortJob (tag : Nat) (b : Bay) (s : State) : State :=
  endJob b .aborted 0 (settleHello b (cleanup b (accept jobAbortKind tag [] s)))

/-- JOB ABORT at its bay controller (R27). -/
def reqJobAbort (tag bay : Nat) (s : State) : State :=
  withBay jobAbortKind tag bay
    (fun b s => if (s.bay b).state = .running then abortJob tag b s else refuse jobAbortKind tag .badState s) s

/-- JOB ABORT (R27). -/
def execJobAbort (tag bay : Nat) (s : State) : Outcome State Fault Refusal :=
  .next (atOwner jobAbortKind tag (reqJobAbort tag bay) s)

/-! ## BAY RESUME (R23) -/

/-- Request kind of BAY RESUME (R186). -/
def resumeKind : Nat := 10

/-- RESUME accepts the fault list: every cause resumable, no overflow (R23). -/
def BayRec.resumable (r : BayRec) : Bool := r.faults.all FaultCause.resumable && !r.overflow

/-- The record of a resumed bay: back in its from-state, fault list emptied (R23). -/
def BayRec.resumed (r : BayRec) : BayRec :=
  { r with state := r.origin.getD .ready, origin := none, faults := [], overflow := false, firstKeep := false }

/-- A KEEP whose refusal was the first cause is made due (R23). -/
def keepAgain (b : Bay) (first : Bool) (s : State) : State :=
  if first && (s.port b).linkAlive then keepDueAgain b s else s

/-- Accepted RESUME: reply OK, the from-state, STAGE on a return to RUNNING, the KEEP sent again, the requests of R129, the
restart point (R23, log entry 10). -/
def resumeBay (tag : Nat) (b : Bay) (s : State) : State :=
  let first := (s.bay b).firstKeep
  let s := accept resumeKind tag [] s
  let s := s.setBay b (s.bay b).resumed
  let s := if (s.bay b).state = .running then stageNotice b s else s
  pump b (restart b (returnPlacements b (keepAgain b first s)))

/-- RESUME at its bay controller (R23). -/
def reqBayResume (tag bay : Nat) (s : State) : State :=
  withBay resumeKind tag bay
    (fun b s =>
      if (s.bay b).state = .faulted ∧ (s.bay b).resumable = true then resumeBay tag b s
      else refuse resumeKind tag .badState s) s

/-- BAY RESUME (R23). -/
def execBayResume (tag bay : Nat) (s : State) : Outcome State Fault Refusal :=
  .next (atOwner resumeKind tag (reqBayResume tag bay) s)

/-! ## BAY RELEASE (R24) -/

/-- Request kind of BAY RELEASE (R186). -/
def releaseKind : Nat := 11

/-- A tunnel record holds a pass in state SENT. -/
def Port.passSent (p : Port) : Bool :=
  match p.tunnel with
  | none => false
  | some t => match t.pass with
    | .sent _ => true
    | .queued _ => false
    | .none => false

/-- The code of the first cause in a fault list. -/
def firstCause (l : List FaultCause) : Nat :=
  match l with
  | [] => 0
  | c :: _ => c.code

/-- Step 1 of R24: an open job closes ABORTED, and JOB DONE carries the first cause. -/
def releaseJob (b : Bay) (s : State) : State :=
  if (s.bay b).jobOpen then
    let s := closeJob b .aborted s
    placeNotice (doneNotice b .aborted (firstCause (s.bay b).faults) (s.bay b)) s
  else s

/-- The record of a bay released to READY: job fields, fault list and from-state emptied (R24). -/
def BayRec.toReady (r : BayRec) : BayRec :=
  { r with state := .ready, origin := none, faults := [], overflow := false, firstKeep := false, job := none }

/-- The tunnel record is discarded (R57, R61). -/
def dropTunnel (b : Bay) (s : State) : State := s.setPort b { s.port b with tunnel := none }

/-- Step 4 of R24: ATTACHING with identity and job fields emptied, HELLO polling afresh (R36). A showing flag still set stays
set, the model's choice (log entry 33). -/
def toAttaching (b : Bay) (s : State) : State :=
  let s := s.setBay b { (s.bay b).toReady with state := .attaching, identity := none }
  startAttach b (s.setPoller b { s.poller b with level := .watch, helloOut := false, helloAnswered := false })

/-- Accepted RELEASE of a FAULTED bay (R24, R61, R129). -/
def releaseFaulted (tag : Nat) (b : Bay) (s : State) : State :=
  let s := dropTunnel b (releaseJob b (accept releaseKind tag [] s))
  let s := if (s.port b).linkAlive = true ∧ (s.bay b).identity.isSome = true then s.setBay b (s.bay b).toReady
    else toAttaching b s
  returnPlacements b s

/-- RELEASE is accepted in STOPPED: the verdict is not PASS and link-alive is true (R24). -/
def stoppedReleasable (s : State) (b : Bay) : Bool :=
  (s.port b).linkAlive && (match (s.bay b).job with
    | none => true
    | some j => decide (j.verdict ≠ some .pass))

/-- RELEASE at a bay, by its state (R24). -/
def releaseBay (tag : Nat) (b : Bay) (s : State) : State :=
  match (s.bay b).state with
  | .faulted => if (s.port b).passSent then refuse releaseKind tag .busy s else releaseFaulted tag b s
  | .stopped =>
    if stoppedReleasable s b then s.setBay b (s.bay b).toReady |> accept releaseKind tag []
    else refuse releaseKind tag .badState s
  | .parked | .empty | .attaching | .ready | .running | .tunnel => refuse releaseKind tag .badState s

/-- RELEASE at its bay controller (R24). -/
def reqBayRelease (tag bay : Nat) (s : State) : State := withBay releaseKind tag bay (releaseBay tag) s

/-- BAY RELEASE (R24). -/
def execBayRelease (tag bay : Nat) (s : State) : Outcome State Fault Refusal :=
  .next (atOwner releaseKind tag (reqBayRelease tag bay) s)

/-! ## BAY PARK and BAY UNPARK (R7, R40, R77) -/

/-- Request kind of BAY PARK (R186). -/
def parkKind : Nat := 12

/-- Accepted PARK: PARKED, the poll clock and the time empty stopped, the probe STOPPED (R7, R35, R40, R77). -/
def parkBay (b : Bay) (s : State) : State :=
  let s := s.setBay b { s.bay b with state := .parked }
  let s := s.setPoller b { s.poller b with next := none, emptyTime := (s.poller b).emptyTime.pause s.now }
  s.setProbe b { s.probe b with warm := .stopped }

/-- PARK at its bay controller (R7). -/
def reqBayPark (tag bay : Nat) (s : State) : State :=
  withBay parkKind tag bay
    (fun b s => if (s.bay b).state = .empty then accept parkKind tag [] (parkBay b s) else refuse parkKind tag .badState s) s

/-- BAY PARK (R7). -/
def execBayPark (tag bay : Nat) (s : State) : Outcome State Fault Refusal :=
  .next (atOwner parkKind tag (reqBayPark tag bay) s)

/-- Request kind of BAY UNPARK (R186). -/
def unparkKind : Nat := 13

/-- Accepted UNPARK: EMPTY at WATCH, time empty 0, the first poll due at once (log entry 26), the probe WARMING for 5,000 ms
(R7, R40, R77). -/
def unparkBay (b : Bay) (s : State) : State :=
  let s := s.setBay b { s.bay b with state := .empty }
  let s := s.setPoller b
    { level := .watch, emptyTime := .start s.now, next := some s.now, helloOut := false, helloAnswered := false }
  s.setProbe b { s.probe b with warm := .warming (s.now + ms Config.warmUpMs) }

/-- UNPARK at its bay controller (R7). -/
def reqBayUnpark (tag bay : Nat) (s : State) : State :=
  withBay unparkKind tag bay
    (fun b s =>
      if (s.bay b).state = .parked then accept unparkKind tag [] (unparkBay b s)
      else refuse unparkKind tag .badState s) s

/-- BAY UNPARK (R7). -/
def execBayUnpark (tag bay : Nat) (s : State) : Outcome State Fault Refusal :=
  .next (atOwner unparkKind tag (reqBayUnpark tag bay) s)

/-! ## BAY QUERY (R29) -/

/-- Request kind of BAY QUERY (R186). -/
def queryKind : Nat := 14

/-- The four query counters set to 0 (R29). -/
def BayRec.clearCounters (r : BayRec) : BayRec :=
  { r with discarded := 0, adjustments := 0, overtimes := 0, requests := 0 }

/-- QUERY at its bay controller (R29). -/
def reqBayQuery (tag bay : Nat) (s : State) : State :=
  withBay queryKind tag bay
    (fun b s => accept queryKind tag (queryBody s b) (s.setBay b (s.bay b).clearCounters)) s

/-- BAY QUERY (R29). -/
def execBayQuery (tag bay : Nat) (s : State) : Outcome State Fault Refusal :=
  .next (atOwner queryKind tag (reqBayQuery tag bay) s)

end Sys2Proof.Machine
end

