-- ==== Sys2Proof/Machine/TunnelRequests.lean ====
section
/-! DEFINITION. The tunnel requests (R57, R58, R60). -/

namespace Sys2Proof.Machine

open Sys2Proof
open Host (Outcome)

/-- Request kind of TUNNEL ENTER (R186). -/
def enterKind : Nat := 16

/-- Accepted TUNNEL ENTER: a fresh tunnel record, TUNNEL (R57). -/
def enterTunnel (b : Bay) (s : State) : State :=
  let s := s.setPort b { s.port b with tunnel := some { trap := 0, fwd := 0, pass := .none } }
  s.setBay b { s.bay b with state := .tunnel }

/-- TUNNEL ENTER at its port (R57). -/
def reqTunnelEnter (tag bay : Nat) (s : State) : State :=
  withBay enterKind tag bay
    (fun b s =>
      if (s.bay b).state = .ready then accept enterKind tag [] (enterTunnel b s) else refuse enterKind tag .badState s) s

/-- TUNNEL ENTER (R57). -/
def execTunnelEnter (tag bay : Nat) (s : State) : Outcome State Fault Refusal :=
  .next (atOwner enterKind tag (reqTunnelEnter tag bay) s)

/-! ## TUNNEL PASS (R58) -/

/-- A SHOW is trapped: the class is not loaded, the body is not a channel and a level code, or the level is at or above the
class's threshold (R58). -/
def showTrapped (c : Option ClassFields) (body : List Byte) : Bool :=
  match c, body with
  | some c, [ch, hi, lo] =>
    decide (3 < ch.toNat) || decide (1023 < nat16 hi lo) || decide (c.threshold ≤ nat16 hi lo)
  | _, _ => true

/-- A carried request is trapped, by its kind (R58, R189). -/
def isTrapped (c : Option ClassFields) (kind : Byte) (body : List Byte) : Bool :=
  match kind.toNat with
  | 3 => true
  | 4 => true
  | 5 => true
  | 6 => showTrapped c body
  | 8 => true
  | 9 => true
  | 10 => true
  | 11 => true
  | 12 => true
  | 13 => true
  | 14 => true
  | 15 => true
  | _ => false

/-- A trapped request: the trap count rises and the reply is TRAPPED, without an answer (R58). -/
def trapPass (tag : Nat) (b : Bay) (t : Tunnel) (s : State) : State :=
  refuse passKind tag .trapped (s.setPort b { s.port b with tunnel := some { t with trap := bump t.trap } })

/-- A forwarded request is placed on the set port with pass state QUEUED; its reply's entry stays set aside (R59). -/
def forwardPass (tag : Nat) (b : Bay) (kind : Byte) (body : List Byte) (s : State) : State :=
  place b { what := .forwarded kind, owner := .work, body := body } (setPass b (.queued tag) s)

/-- Checks 3 and 4 of R58, then the trap. -/
def passThrough (tag : Nat) (b : Bay) (t : Tunnel) (carried : List Byte) (s : State) : State :=
  if t.pass ≠ .none then refuse passKind tag .busy s
  else match carried with
    | [] => refuse passKind tag .badField s
    | kind :: body =>
      if 512 < carried.length then refuse passKind tag .badField s
      else if isTrapped (s.bayClass b) kind body then trapPass tag b t s
      else forwardPass tag b kind body s

/-- TUNNEL PASS at its port (R58); a bay in TUNNEL has a tunnel record. -/
def reqTunnelPass (tag bay : Nat) (carried : List Byte) (s : State) : State :=
  withBay passKind tag bay
    (fun b s =>
      match (s.bay b).state, (s.port b).tunnel with
      | .tunnel, some t => passThrough tag b t carried s
      | _, _ => refuse passKind tag .badState s) s

/-- TUNNEL PASS (R58). -/
def execTunnelPass (tag bay : Nat) (carried : List Byte) (s : State) : Outcome State Fault Refusal :=
  .next (atOwner passKind tag (reqTunnelPass tag bay carried) s)

/-! ## TUNNEL EXIT (R60) -/

/-- Request kind of TUNNEL EXIT (R186). -/
def exitKind : Nat := 18

/-- Accepted TUNNEL EXIT: READY, the record discarded, its counts in the reply (R60). -/
def exitTunnel (tag : Nat) (b : Bay) (t : Tunnel) (s : State) : State :=
  let s := dropTunnel b s
  accept exitKind tag (be16 t.trap ++ be16 t.fwd) (s.setBay b { s.bay b with state := .ready })

/-- TUNNEL EXIT at its port (R60). -/
def reqTunnelExit (tag bay : Nat) (s : State) : State :=
  withBay exitKind tag bay
    (fun b s =>
      match (s.bay b).state, (s.port b).tunnel with
      | .tunnel, some t => if t.pass ≠ .none then refuse exitKind tag .busy s else exitTunnel tag b t s
      | _, _ => refuse exitKind tag .badState s) s

/-- TUNNEL EXIT (R60). -/
def execTunnelExit (tag bay : Nat) (s : State) : Outcome State Fault Refusal :=
  .next (atOwner exitKind tag (reqTunnelExit tag bay) s)

end Sys2Proof.Machine
end

