-- ==== Sys2Proof/Machine/StoreReads.lean ====
section
/-! DEFINITION. The reads of the map store: SHEET READ and MAP READ (R115, R116). They change no state (R117). -/

namespace Sys2Proof.Machine

open Sys2Proof
open Host (Outcome)

/-- A count of readings or cells asked for is 1 to 240 (R115, R116). -/
def readCount (count : Nat) : Bool := decide (1 ≤ count ∧ count ≤ 240)

/-- Request kind of SHEET READ (R186). -/
def sheetReadKind : Nat := 20

/-- SHEET READ of a row, checks 2 and 3 of R115. -/
def readSheet (tag : Nat) (b : Bay) (row start count : Nat) (s : State) : State :=
  match (s.area b).row row with
  | none => refuse sheetReadKind tag .notFound s
  | some r =>
    if r.cols * r.rows ≤ start then refuse sheetReadKind tag .badField s
    else accept sheetReadKind tag (sheetBody b row start count r) s

/-- SHEET READ at the map store (R115). -/
def reqSheetRead (tag bay row start count : Nat) (s : State) : State :=
  withBay sheetReadKind tag bay
    (fun b s =>
      if row < 15 ∧ readCount count = true then readSheet tag b row start count s
      else refuse sheetReadKind tag .badField s) s

/-- SHEET READ (R115). -/
def execSheetRead (tag bay row start count : Nat) (s : State) : Outcome State Fault Refusal :=
  .next (atOwner sheetReadKind tag (reqSheetRead tag bay row start count) s)

/-- Request kind of MAP READ (R186). -/
def mapReadKind : Nat := 21

/-- MAP READ of a section, checks 2 and 3 of R116. -/
def readMap (tag : Nat) (b : Bay) (id start count : Nat) (s : State) : State :=
  match (s.area b).frame with
  | none => refuse mapReadKind tag .notFound s
  | some f =>
    match f.sections.drop id with
    | [] => refuse mapReadKind tag .notFound s
    | c :: _ =>
      if f.cols * f.rows ≤ start then refuse mapReadKind tag .badField s
      else accept mapReadKind tag (mapBody b id start count (get12 (s.seq b).confirmed id) f.state c) s

/-- MAP READ at the map store (R116). -/
def reqMapRead (tag bay id start count : Nat) (s : State) : State :=
  withBay mapReadKind tag bay
    (fun b s =>
      if id < 12 ∧ readCount count = true then readMap tag b id start count s
      else refuse mapReadKind tag .badField s) s

/-- MAP READ (R116). -/
def execMapRead (tag bay id start count : Nat) (s : State) : Outcome State Fault Refusal :=
  .next (atOwner mapReadKind tag (reqMapRead tag bay id start count) s)

end Sys2Proof.Machine
end

