-- ==== Sys2Proof/Machine/StockRequests.lean ====
section
/-! DEFINITION. The requests to the key stock (R139 to R142). -/

namespace Sys2Proof.Machine

open Sys2Proof
open Host (Outcome)

/-! ## KEY LOAD (R139) -/

/-- Request kind of KEY LOAD (R186). -/
def keyLoadKind : Nat := 24

/-- The record of an accepted KEY LOAD (R138, R139). -/
def newRecord (k : KeyFields) (seqNo : Nat) : KeyRec :=
  { keyId := k.keyId, cls := k.cls, regions := k.regions, batch := k.batch, blobLen := k.blobLen, check := k.check,
    loadSeq := seqNo, state := .available, blob := some k.blob }

/-- The stock has room for a blob (R139, check 4). -/
def Stock.hasRoom (k : Stock) (blobLen : Nat) : Bool :=
  decide (k.records.length < Config.keyRecords) && decide (blobUsed k.records + blobLen ≤ Config.blobBytes)

/-- The stock with a record added at the tail of load order (R138, R139). -/
def Stock.load (k : Stock) (f : KeyFields) : Stock :=
  { k with records := k.records ++ [newRecord f k.nextSeq], nextSeq := k.nextSeq + 1 }

/-- KEY LOAD at the key stock: the four checks in order, then the record, the reply, the offer (R139, R145). -/
def reqKeyLoad (tag : Nat) (k : KeyFields) (s : State) : State :=
  if !keyInRange k then refuse keyLoadKind tag .badField s
  else if crc32 k.blob ≠ k.check then refuse keyLoadKind tag .integrity s
  else if (s.stock.find k.keyId).isSome then refuse keyLoadKind tag .duplicate s
  else if !s.stock.hasRoom k.blobLen then refuse keyLoadKind tag .stockFull s
  else offer k.keyId (accept keyLoadKind tag (seqBytes s.stock.nextSeq) (s.setStock (s.stock.load k)))

/-- KEY LOAD (R139). -/
def execKeyLoad (tag : Nat) (k : KeyFields) (s : State) : Outcome State Fault Refusal :=
  .next (atOwner keyLoadKind tag (reqKeyLoad tag k) s)

/-! ## KEY WITHDRAW (R140) -/

/-- Request kind of KEY WITHDRAW (R186). -/
def keyWithdrawKind : Nat := 25

/-- The record is RESERVED or SENDING. -/
def KeyRec.isBusy (r : KeyRec) : Bool :=
  match r.state with
  | .reserved _ => true
  | .sending _ => true
  | .available => false
  | .bound _ => false
  | .voided _ _ => false

/-- The record is BOUND or VOIDED. -/
def KeyRec.isSpent (r : KeyRec) : Bool :=
  match r.state with
  | .bound _ => true
  | .voided _ _ => true
  | .available => false
  | .reserved _ => false
  | .sending _ => false

/-- How many of the named records satisfy a test. -/
def countNamed (named test : KeyRec → Bool) (rs : List KeyRec) : Nat := rs.countP (fun r => named r && test r)

/-- The stock without the named records that satisfy a test; load order stays. -/
def Stock.drop (k : Stock) (named test : KeyRec → Bool) : Stock :=
  { k with records := k.records.filter (fun r => !(named r && test r)) }

/-- Named AVAILABLE records are removed; the reply counts removed, busy and spent (R140). -/
def withdrawNamed (tag : Nat) (named : KeyRec → Bool) (s : State) : State :=
  let rs := s.stock.records
  accept keyWithdrawKind tag
    (be16 (countNamed named KeyRec.isAvailable rs) ++ be16 (countNamed named KeyRec.isBusy rs) ++
      be16 (countNamed named KeyRec.isSpent rs))
    (s.setStock (s.stock.drop named KeyRec.isAvailable))

/-- KEY WITHDRAW by key ID at the key stock (R140). -/
def reqWithdrawById (tag keyId : Nat) (s : State) : State :=
  if keyId = 0 then refuse keyWithdrawKind tag .badField s
  else if (s.stock.find keyId).isNone then refuse keyWithdrawKind tag .notFound s
  else withdrawNamed tag (fun r => r.keyId == keyId) s

/-- KEY WITHDRAW by key ID (R140). -/
def execKeyWithdrawById (tag keyId : Nat) (s : State) : Outcome State Fault Refusal :=
  .next (atOwner keyWithdrawKind tag (reqWithdrawById tag keyId) s)

/-- KEY WITHDRAW by batch at the key stock (R140). -/
def reqWithdrawByBatch (tag batch : Nat) (s : State) : State := withdrawNamed tag (fun r => r.batch == batch) s

/-- KEY WITHDRAW by batch (R140). -/
def execKeyWithdrawByBatch (tag batch : Nat) (s : State) : Outcome State Fault Refusal :=
  .next (atOwner keyWithdrawKind tag (reqWithdrawByBatch tag batch) s)

/-! ## KEY PURGE (R141) -/

/-- Request kind of KEY PURGE (R186). -/
def keyPurgeKind : Nat := 26

/-- Named BOUND and VOIDED records are removed; the reply counts removed and kept (R141). -/
def purgeNamed (tag : Nat) (named : KeyRec → Bool) (s : State) : State :=
  let rs := s.stock.records
  accept keyPurgeKind tag
    (be16 (countNamed named KeyRec.isSpent rs) ++ be16 (countNamed named (fun r => !r.isSpent) rs))
    (s.setStock (s.stock.drop named KeyRec.isSpent))

/-- KEY PURGE of all records at the key stock (R141). -/
def reqPurgeAll (tag : Nat) (s : State) : State := purgeNamed tag (fun _ => true) s

/-- KEY PURGE of all records (R141). -/
def execKeyPurgeAll (tag : Nat) (s : State) : Outcome State Fault Refusal :=
  .next (atOwner keyPurgeKind tag (reqPurgeAll tag) s)

/-- KEY PURGE of one batch at the key stock (R141). -/
def reqPurgeBatch (tag batch : Nat) (s : State) : State := purgeNamed tag (fun r => r.batch == batch) s

/-- KEY PURGE of one batch (R141). -/
def execKeyPurgeBatch (tag batch : Nat) (s : State) : Outcome State Fault Refusal :=
  .next (atOwner keyPurgeKind tag (reqPurgeBatch tag batch) s)

/-! ## STOCK QUERY (R142) -/

/-- Request kind of STOCK QUERY (R186). -/
def stockQueryKind : Nat := 27

/-- STOCK QUERY counts at the key stock (R142). -/
def reqQueryCounts (tag : Nat) (s : State) : State := accept stockQueryKind tag (countsBody s.stock s.now) s

/-- STOCK QUERY counts (R142). -/
def execStockQueryCounts (tag : Nat) (s : State) : Outcome State Fault Refusal :=
  .next (atOwner stockQueryKind tag (reqQueryCounts tag) s)

/-- STOCK QUERY run at the key stock (R142). -/
def reqQueryRun (tag start count : Nat) (s : State) : State :=
  if 1 ≤ count ∧ count ≤ 24 then accept stockQueryKind tag (runBody s.stock start count) s
  else refuse stockQueryKind tag .badField s

/-- STOCK QUERY run (R142). -/
def execStockQueryRun (tag start count : Nat) (s : State) : Outcome State Fault Refusal :=
  .next (atOwner stockQueryKind tag (reqQueryRun tag start count) s)

/-- STOCK QUERY record at the key stock (R142). -/
def reqQueryRecord (tag keyId : Nat) (s : State) : State :=
  if keyId = 0 then refuse stockQueryKind tag .badField s
  else match s.stock.find keyId with
    | none => refuse stockQueryKind tag .notFound s
    | some k => accept stockQueryKind tag (recordBody k) s

/-- STOCK QUERY record (R142). -/
def execStockQueryRecord (tag keyId : Nat) (s : State) : Outcome State Fault Refusal :=
  .next (atOwner stockQueryKind tag (reqQueryRecord tag keyId) s)

end Sys2Proof.Machine
end

