-- ==== Sys2Proof/Machine/TableRequests.lean ====
section
/-! DEFINITION. The requests to the profile table (R160 to R163). -/

namespace Sys2Proof.Machine

open Sys2Proof
open Host (Outcome)

/-- A profile slot's contents replaced whole or emptied; its reference count stays. -/
def Table.putProfile (t : Table) (i : Fin 16) (c : Option ProfileFields) : Table :=
  { t with profiles := updAt t.profiles i { t.profiles.get i with content := c } }

/-- A class slot's contents replaced whole or emptied; its reference count stays. -/
def Table.putClass (t : Table) (i : Fin 8) (c : Option ClassFields) : Table :=
  { t with classes := updAt t.classes i { t.classes.get i with content := c } }

/-- Request kind of PROFILE LOAD (R186). -/
def profileLoadKind : Nat := 28

/-- PROFILE LOAD at the profile table: BAD_FIELD, IN_USE, or the slot written whole; the reply carries the slot and whether it
was LOADED before (R160), a flag of 1 for LOADED, the model's choice (log entry 17). -/
def reqProfileLoad (tag slot : Nat) (p : ProfileFields) (s : State) : State :=
  match profileIndex slot with
  | none => refuse profileLoadKind tag .badField s
  | some i =>
    if !profileInRange p then refuse profileLoadKind tag .badField s
    else if 0 < (s.table.profiles.get i).refs then refuse profileLoadKind tag .inUse s
    else accept profileLoadKind tag (b1 slot ++ bFlag (s.table.profiles.get i).content.isSome)
      (s.setTable (s.table.putProfile i (some p)))

/-- PROFILE LOAD (R160). -/
def execProfileLoad (tag slot : Nat) (p : ProfileFields) (s : State) : Outcome State Fault Refusal :=
  .next (atOwner profileLoadKind tag (reqProfileLoad tag slot p) s)

/-- Request kind of PROFILE DROP (R186). -/
def profileDropKind : Nat := 29

/-- PROFILE DROP at the profile table (R161). -/
def reqProfileDrop (tag slot : Nat) (s : State) : State :=
  match profileIndex slot with
  | none => refuse profileDropKind tag .badField s
  | some i =>
    if (s.table.profiles.get i).content.isNone then refuse profileDropKind tag .notFound s
    else if 0 < (s.table.profiles.get i).refs then refuse profileDropKind tag .inUse s
    else accept profileDropKind tag [] (s.setTable (s.table.putProfile i none))

/-- PROFILE DROP (R161). -/
def execProfileDrop (tag slot : Nat) (s : State) : Outcome State Fault Refusal :=
  .next (atOwner profileDropKind tag (reqProfileDrop tag slot) s)

/-- Request kind of CLASS LOAD (R186). -/
def classLoadKind : Nat := 30

/-- CLASS LOAD at the profile table (R162); whether the slot was LOADED before is a flag of 1 for LOADED, the model's choice (log
entry 17). -/
def reqClassLoad (tag id : Nat) (c : ClassFields) (s : State) : State :=
  match classIndex id with
  | none => refuse classLoadKind tag .badField s
  | some i =>
    if !classInRange c then refuse classLoadKind tag .badField s
    else if 0 < (s.table.classes.get i).refs then refuse classLoadKind tag .inUse s
    else accept classLoadKind tag (b1 id ++ bFlag (s.table.classes.get i).content.isSome)
      (s.setTable (s.table.putClass i (some c)))

/-- CLASS LOAD (R162). -/
def execClassLoad (tag id : Nat) (c : ClassFields) (s : State) : Outcome State Fault Refusal :=
  .next (atOwner classLoadKind tag (reqClassLoad tag id c) s)

/-- Request kind of CLASS DROP (R186). -/
def classDropKind : Nat := 31

/-- CLASS DROP at the profile table (R163). -/
def reqClassDrop (tag id : Nat) (s : State) : State :=
  match classIndex id with
  | none => refuse classDropKind tag .badField s
  | some i =>
    if (s.table.classes.get i).content.isNone then refuse classDropKind tag .notFound s
    else if 0 < (s.table.classes.get i).refs then refuse classDropKind tag .inUse s
    else accept classDropKind tag [] (s.setTable (s.table.putClass i none))

/-- CLASS DROP (R163). -/
def execClassDrop (tag id : Nat) (s : State) : Outcome State Fault Refusal :=
  .next (atOwner classDropKind tag (reqClassDrop tag id) s)

end Sys2Proof.Machine
end

