-- ==== Sys2Proof/Machine/LineLink.lean ====
section
/-! DEFINITION. The line link's own events: power-on, received bytes and breaks, dispatch, and a message leaving the line
(R170 to R175, R182). -/

namespace Sys2Proof.Machine

open Sys2Proof
open Host (Outcome)

/-! ## Power-on (R182) -/

/-- POWER_ON: every block at its power-on values, STARTED placed; the command queue is the outside's and stays. -/
def execPowerOn (s : State) : Outcome State Fault Refusal := .next { State.reset with pending := s.pending }

/-! ## Receiving (R170 to R173) -/

/-- A framing error: its count is raised and a LINK ERROR notice is placed (R173). -/
def Link.raise (l : Link) (e : LinkError) : Link :=
  let errs := match e with
    | .length _ => { l.errs with length := bump l.errs.length }
    | .crc _ _ => { l.errs with crc := bump l.errs.crc }
    | .brk _ => { l.errs with brk := bump l.errs.brk }
    | .overrun _ _ => { l.errs with overrun := bump l.errs.overrun }
  ({ l with errs := errs }).offerNotice (.linkError e)

/-- A complete frame: kind, tag, body, CRC after the length field. CRC, room, accepted, in this order (R171). -/
def Link.checkFrame (l : Link) (expected : Nat) (taken : List Byte) : Link :=
  match taken with
  | kind :: tag :: rest =>
    let body := rest.take (expected - 4)
    if rest.drop (expected - 4) ≠ be16 (crc16 (be16 expected ++ kind :: tag :: body)).toNat then l.raise (.crc kind tag)
    else if Config.inputFrames ≤ l.inBuf.length then l.raise (.overrun kind tag)
    else { l with inBuf := l.inBuf ++ [{ kind := kind, tag := tag, body := body }] }
  | _ => l

/-- The length is judged: 4 to 1,021 (R170). -/
def Link.judgeLength (l : Link) (len : Nat) : Link :=
  if 4 ≤ len ∧ len ≤ 1021 then { l with rx := .frame len [] } else ({ l with rx := .hunt }).raise (.length len)

/-- The receiver takes one byte (R170). -/
def Link.takeByte (l : Link) (byte : Byte) : Link :=
  match l.rx with
  | .hunt => if byte = lineStart then { l with rx := .length [] } else l
  | .length taken =>
    match taken with
    | [] => { l with rx := .length [byte] }
    | hi :: _ => l.judgeLength (nat16 hi byte)
  | .frame expected taken =>
    let taken := taken ++ [byte]
    if taken.length < expected then { l with rx := .frame expected taken }
    else ({ l with rx := .hunt }).checkFrame expected taken

/-- LINE_BYTE_RECEIVED, also of a byte with a faulty stop bit that is part of no break, at the value received (R170); from an
accepted RESET FULL on what is received is discarded (R182). -/
def execLineByteReceived (byte : Byte) (s : State) : Outcome State Fault Refusal :=
  .next (if s.link.resetPending then s else s.setLink (s.link.takeByte byte))

/-- There is a partial frame. -/
def Receiver.partialFrame : Receiver → Bool
  | .hunt => false
  | .length _ => true
  | .frame _ _ => true

/-- LINE_BREAK (R172); discarded from an accepted RESET FULL on (R182). -/
def execLineBreak (s : State) : Outcome State Fault Refusal :=
  .next (if s.link.resetPending then s
    else s.setLink (({ s.link with rx := .hunt }).raise (.brk s.link.rx.partialFrame)))

/-! ## Dispatch (R174) -/

/-- An empty body. -/
def parse0 : List Byte → Option Unit
  | [] => some ()
  | _ => none

/-- A body that has its kind's form goes to its owner; any other is replied BAD_FIELD (R174). -/
def withBody {α : Type} (kind tag : Nat) (body : Option α) (owner : α → State → State) (s : State) : State :=
  match body with
  | none => refuse kind tag .badField s
  | some x => owner x s

/-- RESET by its scope (R181, R186). -/
def reqReset (tag scope : Nat) (s : State) : State :=
  match scope with
  | 0 => reqResetFull tag s
  | 1 => reqResetBays tag s
  | _ => refuse resetKind tag .badField s

/-- KEY WITHDRAW by its mode (R187). -/
def reqKeyWithdraw (tag : Nat) (ask : StockAsk) (s : State) : State :=
  match ask with
  | .byId id => reqWithdrawById tag id s
  | .byBatch n => reqWithdrawByBatch tag n s
  | .everything => refuse keyWithdrawKind tag .badField s
  | .run _ _ => refuse keyWithdrawKind tag .badField s

/-- KEY PURGE by its mode (R187). -/
def reqKeyPurge (tag : Nat) (ask : StockAsk) (s : State) : State :=
  match ask with
  | .everything => reqPurgeAll tag s
  | .byBatch n => reqPurgeBatch tag n s
  | .byId _ => refuse keyPurgeKind tag .badField s
  | .run _ _ => refuse keyPurgeKind tag .badField s

/-- STOCK QUERY by its mode (R187). -/
def reqStockQuery (tag : Nat) (ask : StockAsk) (s : State) : State :=
  match ask with
  | .everything => reqQueryCounts tag s
  | .run start count => reqQueryRun tag start count s
  | .byId id => reqQueryRecord tag id s
  | .byBatch _ => refuse stockQueryKind tag .badField s

/-- The request a kind and body spell, taken to its owning block (R174, R186, R187). -/
def handOver (kind tag : Nat) (body : List Byte) (s : State) : State :=
  match kind with
  | 1 => withBody 1 tag (parse0 body) (fun _ => reqIdent tag) s
  | 2 => withBody 2 tag (parse0 body) (fun _ => reqStatus tag) s
  | 3 => withBody 3 tag (parseConfigure body) (fun x => reqConfigure tag x.1 x.2) s
  | 4 => withBody 4 tag (parse1 body) (reqReset tag) s
  | 8 => withBody 8 tag (parseJobStart body) (fun x => reqJobStart tag x.1 x.2.1 x.2.2) s
  | 9 => withBody 9 tag (parse1 body) (reqJobAbort tag) s
  | 10 => withBody 10 tag (parse1 body) (reqBayResume tag) s
  | 11 => withBody 11 tag (parse1 body) (reqBayRelease tag) s
  | 12 => withBody 12 tag (parse1 body) (reqBayPark tag) s
  | 13 => withBody 13 tag (parse1 body) (reqBayUnpark tag) s
  | 14 => withBody 14 tag (parse1 body) (reqBayQuery tag) s
  | 16 => withBody 16 tag (parse1 body) (reqTunnelEnter tag) s
  | 17 => withBody 17 tag (parsePass body) (fun x => reqTunnelPass tag x.1 x.2) s
  | 18 => withBody 18 tag (parse1 body) (reqTunnelExit tag) s
  | 20 => withBody 20 tag (parseRead body) (fun x => reqSheetRead tag x.1 x.2.1 x.2.2.1 x.2.2.2) s
  | 21 => withBody 21 tag (parseRead body) (fun x => reqMapRead tag x.1 x.2.1 x.2.2.1 x.2.2.2) s
  | 24 => withBody 24 tag (parseKeyLoad body) (reqKeyLoad tag) s
  | 25 => withBody 25 tag (parseWithdraw body) (reqKeyWithdraw tag) s
  | 26 => withBody 26 tag (parsePurge body) (reqKeyPurge tag) s
  | 27 => withBody 27 tag (parseQuery body) (reqStockQuery tag) s
  | 28 => withBody 28 tag (parseProfile body) (fun x => reqProfileLoad tag x.1 x.2) s
  | 29 => withBody 29 tag (parse1 body) (reqProfileDrop tag) s
  | 30 => withBody 30 tag (parseClass body) (fun x => reqClassLoad tag x.1 x.2) s
  | 31 => withBody 31 tag (parse1 body) (reqClassDrop tag) s
  | _ => refuse kind tag .badKind s

/-- A dispatched frame judged: tag 0 first, then kind, then body (R174). -/
def judgeFrame (f : InFrame) (s : State) : State :=
  if f.tag = 0 then refuse f.kind.toNat 0 .badField s else handOver f.kind.toNat f.tag.toNat f.body s

/-- The oldest frame is dispatched when an entry is free: set aside, removed from the buffer, judged (R174). -/
def dispatchOldest (s : State) : State :=
  match s.link.inBuf with
  | [] => s
  | f :: rest =>
    if canDispatch s then judgeFrame f ((setEntryAside s).setLink { (setEntryAside s).link with inBuf := rest }) else s

/-- DISPATCH (R174). -/
def execDispatch (s : State) : Outcome State Fault Refusal := .next (dispatchOldest s)

/-! ## A message leaves the line (R175, R182) -/

/-- The reset of RESET FULL takes effect: every block at its power-on values, STARTED placed (R182); the command queue and the
record of the lines stay. -/
def resetTakesEffect (s : State) : State := { State.started .resetFull with pending := s.pending, out := s.out }

/-- The first placed message has left the line: its entry is free. When it was the RESET FULL reply, the last one placed, the
reset takes effect (R175, R182). -/
def messageSent (s : State) : State :=
  match s.link.placed with
  | [] => s
  | m :: rest =>
    let s := s.setOut { s.out with ltx := m.bytes }
    let s := s.setLink { s.link with placed := rest }
    if s.link.resetPending ∧ rest.isEmpty = true then resetTakesEffect s else s

/-- OUTBOUND_MESSAGE_SENT (R175). -/
def execOutboundMessageSent (s : State) : Outcome State Fault Refusal := .next (messageSent s)

end Sys2Proof.Machine
end

