-- ==== Sys2Proof/Machine/Time.lean ====
section
/-! DEFINITION. The passing of time (log entry 1): which timers stand expired, and one tick of the clock. Time does not pass
while a timer stands expired and its command has not been taken, so that every timer's event falls at its instant. -/

namespace Sys2Proof.Machine

open Sys2Proof

/-- The outstanding set request of a bay has passed its timeout (R46). -/
def setOverdue (s : State) (b : Bay) : Bool :=
  match (s.port b).outstanding with
  | none => false
  | some o => decide (o.deadline ≤ s.now)

/-- A timer of one bay stands expired: poll, attach, settle, set request, KEEP, lapse, overtime, warm-up, probe request. -/
def bayDue (s : State) (b : Bay) : Bool :=
  expired s.now (s.poller b).next || expired s.now (s.bay b).attachTimer || expired s.now (s.bay b).settleTimer ||
  setOverdue s b || keepFallsDue s b || lapseReached s b || overtimeReached s b || warmUpOver s b || probeOverdue s b

/-- Some timer of the part stands expired. -/
def anyDue (s : State) : Bool :=
  allBays.any (bayDue s) || expired s.now s.gov.headTimer || s.gov.history.any (grantOld s.now)

/-- One tick, unless a timer stands expired. -/
def tick (s : State) : State := if anyDue s then s else { s with now := s.now + 1 }

end Sys2Proof.Machine
end

