-- ==== Sys2Proof/Machine/Dispatch.lean ====
section
/-! DEFINITION. Which meaning each command has: one arm per constructor of Instr. -/

namespace Sys2Proof.Machine

open Sys2Proof
open Host (Outcome)

/-- The effect of a command on everything but the queue. -/
def exec (i : Instr) (s : State) : Host.Outcome State Fault Refusal :=
  match i with
  | .powerOn => Sys2Proof.Machine.execPowerOn s
  | .lineByteReceived byte => Sys2Proof.Machine.execLineByteReceived byte s
  | .lineBreak => Sys2Proof.Machine.execLineBreak s
  | .dispatch => Sys2Proof.Machine.execDispatch s
  | .outboundMessageSent => Sys2Proof.Machine.execOutboundMessageSent s
  | .ident tag => Sys2Proof.Machine.execIdent tag s
  | .status tag => Sys2Proof.Machine.execStatus tag s
  | .configure tag number value => Sys2Proof.Machine.execConfigure tag number value s
  | .resetFull tag => Sys2Proof.Machine.execResetFull tag s
  | .resetBays tag => Sys2Proof.Machine.execResetBays tag s
  | .jobStart tag bay slot args => Sys2Proof.Machine.execJobStart tag bay slot args s
  | .jobAbort tag bay => Sys2Proof.Machine.execJobAbort tag bay s
  | .bayResume tag bay => Sys2Proof.Machine.execBayResume tag bay s
  | .bayRelease tag bay => Sys2Proof.Machine.execBayRelease tag bay s
  | .bayPark tag bay => Sys2Proof.Machine.execBayPark tag bay s
  | .bayUnpark tag bay => Sys2Proof.Machine.execBayUnpark tag bay s
  | .bayQuery tag bay => Sys2Proof.Machine.execBayQuery tag bay s
  | .tunnelEnter tag bay => Sys2Proof.Machine.execTunnelEnter tag bay s
  | .tunnelPass tag bay carried => Sys2Proof.Machine.execTunnelPass tag bay carried s
  | .tunnelExit tag bay => Sys2Proof.Machine.execTunnelExit tag bay s
  | .sheetRead tag bay row start count => Sys2Proof.Machine.execSheetRead tag bay row start count s
  | .mapRead tag bay sec start count => Sys2Proof.Machine.execMapRead tag bay sec start count s
  | .keyLoad tag key => Sys2Proof.Machine.execKeyLoad tag key s
  | .keyWithdrawById tag keyId => Sys2Proof.Machine.execKeyWithdrawById tag keyId s
  | .keyWithdrawByBatch tag batch => Sys2Proof.Machine.execKeyWithdrawByBatch tag batch s
  | .keyPurgeAll tag => Sys2Proof.Machine.execKeyPurgeAll tag s
  | .keyPurgeBatch tag batch => Sys2Proof.Machine.execKeyPurgeBatch tag batch s
  | .stockQueryCounts tag => Sys2Proof.Machine.execStockQueryCounts tag s
  | .stockQueryRun tag start count => Sys2Proof.Machine.execStockQueryRun tag start count s
  | .stockQueryRecord tag keyId => Sys2Proof.Machine.execStockQueryRecord tag keyId s
  | .profileLoad tag slot fields => Sys2Proof.Machine.execProfileLoad tag slot fields s
  | .profileDrop tag slot => Sys2Proof.Machine.execProfileDrop tag slot s
  | .classLoad tag classId fields => Sys2Proof.Machine.execClassLoad tag classId fields s
  | .classDrop tag classId => Sys2Proof.Machine.execClassDrop tag classId s
  | .poll bay closed => Sys2Proof.Machine.execPoll bay closed s
  | .attachTimerExpiry bay => Sys2Proof.Machine.execAttachTimerExpiry bay s
  | .settleTimerExpiry bay => Sys2Proof.Machine.execSettleTimerExpiry bay s
  | .setAnswerReceived bay frame => Sys2Proof.Machine.execSetAnswerReceived bay frame s
  | .setRequestTimeout bay => Sys2Proof.Machine.execSetRequestTimeout bay s
  | .keepDue bay => Sys2Proof.Machine.execKeepDue bay s
  | .lapse bay => Sys2Proof.Machine.execLapse bay s
  | .headTimerExpiry => Sys2Proof.Machine.execHeadTimerExpiry s
  | .overtimeExpiry bay => Sys2Proof.Machine.execOvertimeExpiry bay s
  | .grantHistoryExpiry => Sys2Proof.Machine.execGrantHistoryExpiry s
  | .warmUpExpiry probe => Sys2Proof.Machine.execWarmUpExpiry probe s
  | .probeMessageReceived probe frame => Sys2Proof.Machine.execProbeMessageReceived probe frame s
  | .probeRequestTimeout probe => Sys2Proof.Machine.execProbeRequestTimeout probe s
  | .solveDone bay => Sys2Proof.Machine.execSolveDone bay s

end Sys2Proof.Machine
end

