-- ==== Sys2Proof/Machine/Step.lean ====
section
/-! DEFINITION. One step: the command at the front of the queue, or a tick of the clock when the queue is empty. -/

namespace Sys2Proof.Machine

open Sys2Proof

/-- Take the front command and run it on the state with the queue's rest; on an empty queue let time pass (log entry 1). -/
def step (s : State) : Host.Outcome State Fault Refusal :=
  match s.pending with
  | [] => .next (tick s)
  | c :: rest => exec c { s with pending := rest }

/-- The state with the command a word spells at the front of its queue; unchanged where the word spells none, and no word
spells one (log entry 34). -/
def State.withFetchWord (s : State) (nbits w : Nat) : State :=
  match decodeTableWord nbits w with
  | none => s
  | some c => { s with pending := c :: s.pending }

end Sys2Proof.Machine
end

