-- ==== Sys2Proof/Machine/Requests.lean ====
section
/-! DEFINITION. The frames the line computer sends for each request, written from the layouts of R184, R186 and R187: the
kind, the tag and the body that DISPATCH reads. -/

namespace Sys2Proof.Machine

open Sys2Proof

/-- One bit of a presence byte. -/
def presenceBit {α : Type} (bit : Nat) (x : Option α) : Nat := if x.isSome then 2 ^ bit else 0

/-- A field that is sent when it is present. -/
def optBytes {α : Type} (f : α → List Byte) : Option α → List Byte
  | none => []
  | some x => f x

/-- The presence byte of a JOB START: bits 0 to 6 for the seven parameters in the order of R2 (R187). -/
def presence (a : JobArgs) : Nat :=
  presenceBit 0 a.levels + presenceBit 1 a.samples + presenceBit 2 a.target + presenceBit 3 a.floorRatio +
  presenceBit 4 a.tolerance + presenceBit 5 a.iterLimit + presenceBit 6 a.mask

/-- The present parameters of a JOB START. -/
def argsBytes (a : JobArgs) : List Byte :=
  optBytes (listBytes be16) a.levels ++ optBytes (fun n => [byteOf n]) a.samples ++ optBytes be16 a.target ++
  optBytes be16 a.floorRatio ++ optBytes (fun n => [byteOf n]) a.tolerance ++ optBytes (fun n => [byteOf n]) a.iterLimit ++
  optBytes (listBytes be16) a.mask

/-- The body of a KEY LOAD. -/
def keyBytes (k : KeyFields) : List Byte :=
  be32 k.keyId ++ [byteOf k.cls] ++ be16 k.batch ++ listBytes tripleBytes k.regions ++ be16 k.blobLen ++
  be32 k.check.toNat ++ k.blob

/-- The fields of R157 in order. -/
def profileBytes (p : ProfileFields) : List Byte :=
  tripleBytes p.region ++ listBytes (fun n => [byteOf n]) p.systems ++ listBytes tripleBytes p.languages ++
  [byteOf p.frameRate, byteOf p.drive] ++ be16 p.powerCap ++ listBytes (fun n => [byteOf n]) p.keyClasses

/-- The fields of R158 in order. -/
def classBytes (c : ClassFields) : List Byte :=
  [byteOf c.cols, byteOf c.rows] ++ be16 c.settle ++ be16 c.threshold ++ [byteOf c.initStep] ++ be16 c.pairs.toNat

/-- A request's kind and tag (R186, R184); none for a command that is no request. -/
def requestHead : Instr → Option (Nat × Nat)
  | .ident tag => some (1, tag)
  | .status tag => some (2, tag)
  | .configure tag _ _ => some (3, tag)
  | .resetFull tag => some (4, tag)
  | .resetBays tag => some (4, tag)
  | .jobStart tag _ _ _ => some (8, tag)
  | .jobAbort tag _ => some (9, tag)
  | .bayResume tag _ => some (10, tag)
  | .bayRelease tag _ => some (11, tag)
  | .bayPark tag _ => some (12, tag)
  | .bayUnpark tag _ => some (13, tag)
  | .bayQuery tag _ => some (14, tag)
  | .tunnelEnter tag _ => some (16, tag)
  | .tunnelPass tag _ _ => some (17, tag)
  | .tunnelExit tag _ => some (18, tag)
  | .sheetRead tag _ _ _ _ => some (20, tag)
  | .mapRead tag _ _ _ _ => some (21, tag)
  | .keyLoad tag _ => some (24, tag)
  | .keyWithdrawById tag _ => some (25, tag)
  | .keyWithdrawByBatch tag _ => some (25, tag)
  | .keyPurgeAll tag => some (26, tag)
  | .keyPurgeBatch tag _ => some (26, tag)
  | .stockQueryCounts tag => some (27, tag)
  | .stockQueryRun tag _ _ => some (27, tag)
  | .stockQueryRecord tag _ => some (27, tag)
  | .profileLoad tag _ _ => some (28, tag)
  | .profileDrop tag _ => some (29, tag)
  | .classLoad tag _ _ => some (30, tag)
  | .classDrop tag _ => some (31, tag)
  | .powerOn | .lineByteReceived _ | .lineBreak | .dispatch | .outboundMessageSent => none
  | .poll _ _ | .attachTimerExpiry _ | .settleTimerExpiry _ | .setAnswerReceived _ _ | .setRequestTimeout _ => none
  | .keepDue _ | .lapse _ | .headTimerExpiry | .overtimeExpiry _ | .grantHistoryExpiry => none
  | .warmUpExpiry _ | .probeMessageReceived _ _ | .probeRequestTimeout _ | .solveDone _ => none

/-- A request's body (R187); empty for a command that is no request. -/
def requestBody : Instr → List Byte
  | .ident _ => []
  | .status _ => []
  | .configure _ number value => byteOf number :: be32 value
  | .resetFull _ => [0]
  | .resetBays _ => [1]
  | .jobStart _ bay slot args => [byteOf bay, byteOf slot, byteOf (presence args)] ++ argsBytes args
  | .jobAbort _ bay => [byteOf bay]
  | .bayResume _ bay => [byteOf bay]
  | .bayRelease _ bay => [byteOf bay]
  | .bayPark _ bay => [byteOf bay]
  | .bayUnpark _ bay => [byteOf bay]
  | .bayQuery _ bay => [byteOf bay]
  | .tunnelEnter _ bay => [byteOf bay]
  | .tunnelPass _ bay carried => byteOf bay :: carried
  | .tunnelExit _ bay => [byteOf bay]
  | .sheetRead _ bay row start count => [byteOf bay, byteOf row] ++ be16 start ++ be16 count
  | .mapRead _ bay sec start count => [byteOf bay, byteOf sec] ++ be16 start ++ be16 count
  | .keyLoad _ key => keyBytes key
  | .keyWithdrawById _ keyId => 0 :: be32 keyId
  | .keyWithdrawByBatch _ batch => 1 :: be16 batch
  | .keyPurgeAll _ => [0]
  | .keyPurgeBatch _ batch => 1 :: be16 batch
  | .stockQueryCounts _ => [0]
  | .stockQueryRun _ start count => 1 :: be32 start ++ [byteOf count]
  | .stockQueryRecord _ keyId => 2 :: be32 keyId
  | .profileLoad _ slot fields => byteOf slot :: profileBytes fields
  | .profileDrop _ slot => [byteOf slot]
  | .classLoad _ classId fields => byteOf classId :: classBytes fields
  | .classDrop _ classId => [byteOf classId]
  | .powerOn | .lineByteReceived _ | .lineBreak | .dispatch | .outboundMessageSent => []
  | .poll _ _ | .attachTimerExpiry _ | .settleTimerExpiry _ | .setAnswerReceived _ _ | .setRequestTimeout _ => []
  | .keepDue _ | .lapse _ | .headTimerExpiry | .overtimeExpiry _ | .grantHistoryExpiry => []
  | .warmUpExpiry _ | .probeMessageReceived _ _ | .probeRequestTimeout _ | .solveDone _ => []

/-- The frame of the input buffer that a request's kind, tag and body make. -/
def requestFrame (kind tag : Nat) (body : List Byte) : InFrame := { kind := byteOf kind, tag := byteOf tag, body := body }

end Sys2Proof.Machine
end

