-- ==== Sys2Proof/Safety.lean ====
section
/-! DEFINITION. The safety conditions of each block's state, which the obligations say every step keeps. -/

namespace Sys2Proof.Machine

open Sys2Proof

/-- The station parameters are in the ranges and relations of R180, R52 and R72. -/
def ParamsOk (p : Params) : Prop :=
  5 ≤ p.watchDown ∧ p.watchDown ≤ 600 ∧ 10 ≤ p.doze1Down ∧ p.doze1Down ≤ 3600 ∧ 60 ≤ p.doze2Down ∧ p.doze2Down ≤ 36000 ∧
  200 ≤ p.keepInterval ∧ p.keepInterval ≤ 5000 ∧ p.keepInterval % 100 = 0 ∧ p.keepInterval + 500 ≤ p.serviceDeadline ∧
  1000 ≤ p.serviceDeadline ∧ p.serviceDeadline ≤ 10000 ∧ 400 ≤ p.grantWindow ∧ p.grantWindow ≤ 10000 ∧
  p.crossRail ≤ p.sameRail ∧ p.sameRail ≤ 2000 ∧ 1000 ≤ p.holdLimit ∧ p.holdLimit ≤ 10000 ∧
  8 ≤ p.refInterval ∧ p.refInterval ≤ 255

/-- The framing error counts stop at 65,535 (R169). -/
def CountsOk (e : ErrorCounts) : Prop := e.length ≤ 65535 ∧ e.crc ≤ 65535 ∧ e.brk ≤ 65535 ∧ e.overrun ≤ 65535

/-- The line link holds at most 4 frames and 32 occupied entries, its counts stop at 65,535, its parameters are in range
(R169, R175, R180). -/
def LinkOk (l : Link) : Prop :=
  l.inBuf.length ≤ 4 ∧ l.occupied ≤ 32 ∧ l.lost ≤ 65535 ∧ CountsOk l.errs ∧ ParamsOk l.params

/-- The from-states of R1. -/
def isOrigin (st : BayState) : Prop :=
  st = .running ∨ st = .tunnel ∨ st = .attaching ∨ st = .ready ∨ st = .stopped

/-- The query counters stop at 65,535; a fault list holds at most 4 causes; a FAULTED bay has a from-state of R1 and at least
one cause (R1, R3, R21, R22, R29). -/
def BayOk (r : BayRec) : Prop :=
  r.discarded ≤ 65535 ∧ r.adjustments ≤ 65535 ∧ r.overtimes ≤ 65535 ∧ r.requests ≤ 65535 ∧ r.faults.length ≤ 4 ∧
  (r.state = .faulted → r.faults ≠ [] ∧ ∃ o, r.origin = some o ∧ isOrigin o)

/-- With link-alive false both clocks stand, the hold state is NONE and no section is recorded open (R48); in HELD and WAKING both
clocks stand (R55). That with link-alive false no KEEP is due is the model's choice, log entry 43: R48 does not name it. -/
def PortOk (p : Port) : Prop :=
  (p.linkAlive = false →
    p.keepClock = .stopped ∧ p.lapseClock = .stopped ∧ p.keepDue = false ∧ p.hold = .none ∧ p.openSection = none) ∧
  (p.hold = .held ∨ p.hold = .waking → p.keepClock = .stopped ∧ p.lapseClock = .stopped)

/-- A port with nothing outstanding has nothing it could send (R43, R53): no HELLO with link-alive false, no WAKE in hold, and out
of hold an empty queue and no KEEP due but behind an open section. -/
def Port.Settled (p : Port) : Prop :=
  p.outstanding = none →
    (p.linkAlive = false → ∀ r ∈ p.queue, r.what ≠ .hello) ∧
    (p.linkAlive = true → p.hold = .held → ∀ r ∈ p.queue, r.what ≠ .wake) ∧
    (p.linkAlive = true → p.hold = .none → p.queue = [] ∧ (p.keepDue = true → p.openSection.isSome = true))

/-- At the port of a FAULTED bay only what its cleanup placed waits: WAKE, CLOSE SECTION and DARK; and no SHOW waits for the DARK of
a revocation (R25, R26, R71). That no HELLO waits there is the model's choice, log entry 13, and that no forwarded request does,
whatever the cause, is its choice, log entry 47. -/
def FaultedQueueOk (r : BayRec) (p : Port) : Prop :=
  r.state = .faulted →
    r.showPending = false ∧ ∀ x ∈ p.queue, x.isWake = true ∨ x.isClose = true ∨ x.isDark = true

/-- A record is AVAILABLE, RESERVED or SENDING. -/
def KeyState.live : KeyState → Bool
  | .available => true
  | .reserved _ => true
  | .sending _ => true
  | .bound _ => false
  | .voided _ _ => false

/-- A record's key ID is not 0, its blob is present in AVAILABLE, RESERVED and SENDING alone and has the blob length (R135). -/
def RecordOk (r : KeyRec) : Prop :=
  r.keyId ≠ 0 ∧ (r.state.live = true → ∃ bl, r.blob = some bl ∧ bl.length = r.blobLen) ∧
  (r.state.live = false → r.blob = none)

/-- At most 2,048 records whose blobs occupy at most 262,144 bytes, load sequences rising in load order and below the next one,
key IDs distinct (R135, R137, R138, R139). -/
def StockOk (k : Stock) : Prop :=
  k.records.length ≤ 2048 ∧ blobUsed k.records ≤ 262144 ∧ (∀ r ∈ k.records, RecordOk r ∧ r.loadSeq < k.nextSeq) ∧
  (k.records.map KeyRec.loadSeq).Pairwise (· < ·) ∧ (k.records.map KeyRec.keyId).Nodup

/-- States a key record can come to from a state (R136). -/
def KeyState.reaches (a b : KeyState) : Prop :=
  match a, b with
  | .available, _ => True
  | .reserved _, _ => True
  | .sending _, .available => False
  | .sending _, .reserved _ => False
  | .sending _, .sending _ => True
  | .sending _, .bound _ => True
  | .sending _, .voided _ _ => True
  | .bound x, y => y = .bound x
  | .voided x r, y => y = .voided x r

/-- A stock comes from another by the events of R136: every record is either new, with a load sequence not yet given, or an
earlier record of the same key ID and load sequence in a state that its state reaches. -/
def Stock.Evolves (k k' : Stock) : Prop :=
  k.nextSeq ≤ k'.nextSeq ∧
  ∀ r' ∈ k'.records, k.nextSeq ≤ r'.loadSeq ∨
    ∃ r ∈ k.records, r.loadSeq = r'.loadSeq ∧ r.keyId = r'.keyId ∧ r.state.reaches r'.state

/-- Every LOADED slot holds fields in range (R157, R158). -/
def TableOk (t : Table) : Prop :=
  (∀ i c, (t.profiles.get i).content = some c → profileInRange c = true) ∧
  (∀ i c, (t.classes.get i).content = some c → classInRange c = true)

/-- A probe record's fields are in their ranges (R76). -/
def ProbeOk (p : Probe) : Prop :=
  1 ≤ p.step ∧ p.step ≤ 12 ∧ 922 ≤ p.factor ∧ p.factor ≤ 1126 ∧ p.count ≤ 255 ∧ p.seqNo ≤ 255

/-- The grant history is newest first and holds no grant after the present (R62, R67). -/
def GovOk (now : Nat) (g : Governor) : Prop :=
  g.history.Pairwise (fun x y => y.time ≤ x.time) ∧ ∀ x ∈ g.history, x.time ≤ now

/-- A bay waits for or holds at most one admission, has at most one capture entry, and claims at most one key by a RESERVED or
SENDING record or a place in the waiting list (R64, R82, R143, R144). -/
def OneClaimEach (s : State) : Prop :=
  s.gov.claimants.Nodup ∧ (s.engine.queue.map Entry.bay).Nodup ∧ s.stock.claimants.Nodup

/-- The bay's open job references a profile slot (R159). -/
def BayRec.usesProfile (r : BayRec) (i : Fin 16) : Bool :=
  match r.job with
  | none => false
  | some j => j.isOpen && decide (profileIndex j.slot = some i)

/-- The bay's open job references a class slot: the one of the class id in the bay's record (R159). -/
def BayRec.usesClass (r : BayRec) (i : Fin 8) : Bool :=
  match r.identity with
  | none => false
  | some x => r.jobOpen && decide (classIndex x.classId = some i)

/-- A bay's job is open exactly in RUNNING and in FAULTED from RUNNING (R1, R19, R21). -/
def BayRec.JobPlaced (r : BayRec) : Prop :=
  r.jobOpen = true ↔ r.state = .running ∨ (r.state = .faulted ∧ r.origin = some .running)

/-- Each slot's reference count is the number of open jobs that reference it (R159), jobs being open where they can be. -/
def RefsOk (s : State) : Prop :=
  (∀ i, (s.table.profiles.get i).refs = allBays.countP (fun b => (s.bay b).usesProfile i)) ∧
  (∀ i, (s.table.classes.get i).refs = allBays.countP (fun b => (s.bay b).usesClass i)) ∧ ∀ b, (s.bay b).JobPlaced

/-! ## What families of commands leave alone -/

/-- The commands that only bays, ports, the governor, the engine and the solver take: every event of chapters 1 to 8, the
requests to a bay and its tunnel, and the reads. -/
def isBayCommand : Instr → Bool
  | .powerOn => false
  | .lineByteReceived _ => false
  | .lineBreak => false
  | .dispatch => false
  | .outboundMessageSent => false
  | .ident _ => true
  | .status _ => false
  | .configure _ _ _ => false
  | .resetFull _ => false
  | .resetBays _ => false
  | .jobStart _ _ _ _ => true
  | .jobAbort _ _ => true
  | .bayResume _ _ => true
  | .bayRelease _ _ => true
  | .bayPark _ _ => true
  | .bayUnpark _ _ => true
  | .bayQuery _ _ => true
  | .tunnelEnter _ _ => true
  | .tunnelPass _ _ _ => true
  | .tunnelExit _ _ => true
  | .sheetRead _ _ _ _ _ => true
  | .mapRead _ _ _ _ _ => true
  | .keyLoad _ _ => false
  | .keyWithdrawById _ _ => false
  | .keyWithdrawByBatch _ _ => false
  | .keyPurgeAll _ => false
  | .keyPurgeBatch _ _ => false
  | .stockQueryCounts _ => true
  | .stockQueryRun _ _ _ => true
  | .stockQueryRecord _ _ => true
  | .profileLoad _ _ _ => false
  | .profileDrop _ _ => false
  | .classLoad _ _ _ => false
  | .classDrop _ _ => false
  | .poll _ _ => true
  | .attachTimerExpiry _ => true
  | .settleTimerExpiry _ => true
  | .setAnswerReceived _ _ => true
  | .setRequestTimeout _ => true
  | .keepDue _ => true
  | .lapse _ => true
  | .headTimerExpiry => true
  | .overtimeExpiry _ => true
  | .grantHistoryExpiry => true
  | .warmUpExpiry _ => true
  | .probeMessageReceived _ _ => true
  | .probeRequestTimeout _ => true
  | .solveDone _ => true

/-- The bay a command acts at: the one a request names, the one whose poll, timer, port or probe an event belongs to. -/
def actsAt : Instr → Option Bay
  | .powerOn => none
  | .lineByteReceived _ => none
  | .lineBreak => none
  | .dispatch => none
  | .outboundMessageSent => none
  | .ident _ => none
  | .status _ => none
  | .configure _ _ _ => none
  | .resetFull _ => none
  | .resetBays _ => none
  | .jobStart _ bay _ _ => bayOf bay
  | .jobAbort _ bay => bayOf bay
  | .bayResume _ bay => bayOf bay
  | .bayRelease _ bay => bayOf bay
  | .bayPark _ bay => bayOf bay
  | .bayUnpark _ bay => bayOf bay
  | .bayQuery _ bay => bayOf bay
  | .tunnelEnter _ bay => bayOf bay
  | .tunnelPass _ bay _ => bayOf bay
  | .tunnelExit _ bay => bayOf bay
  | .sheetRead _ bay _ _ _ => bayOf bay
  | .mapRead _ bay _ _ _ => bayOf bay
  | .keyLoad _ _ => none
  | .keyWithdrawById _ _ => none
  | .keyWithdrawByBatch _ _ => none
  | .keyPurgeAll _ => none
  | .keyPurgeBatch _ _ => none
  | .stockQueryCounts _ => none
  | .stockQueryRun _ _ _ => none
  | .stockQueryRecord _ _ => none
  | .profileLoad _ _ _ => none
  | .profileDrop _ _ => none
  | .classLoad _ _ _ => none
  | .classDrop _ _ => none
  | .poll bay _ => some bay
  | .attachTimerExpiry bay => some bay
  | .settleTimerExpiry bay => some bay
  | .setAnswerReceived bay _ => some bay
  | .setRequestTimeout bay => some bay
  | .keepDue bay => some bay
  | .lapse bay => some bay
  | .headTimerExpiry => none
  | .overtimeExpiry bay => some bay
  | .grantHistoryExpiry => none
  | .warmUpExpiry bay => some bay
  | .probeMessageReceived bay _ => some bay
  | .probeRequestTimeout bay => some bay
  | .solveDone bay => some bay

/-- The job fields but for the current key ID, which the key stock gives and takes. -/
def Job.keyless (j : Job) : Job := { j with keyId := none }

/-- A bay's record holds the same state, from-state, fault list with its marks, and identity. -/
def SameCore (r r' : BayRec) : Prop :=
  r'.state = r.state ∧ r'.origin = r.origin ∧ r'.faults = r.faults ∧ r'.overflow = r.overflow ∧ r'.firstKeep = r.firstKeep ∧
  r'.identity = r.identity

/-- What messages alone keep of the line link: the receiver, the input buffer, the framing error counts, the parameters, the
wait for a RESET FULL, and every message already placed (R175). -/
def SameLine (l l' : Link) : Prop :=
  l'.rx = l.rx ∧ l'.inBuf = l.inBuf ∧ l'.errs = l.errs ∧ l'.params = l.params ∧ l'.resetPending = l.resetPending ∧
  l.placed <+: l'.placed

/-- The stock holds the same records under their key IDs and load sequences. -/
def SameKeys (k k' : Stock) : Prop :=
  k'.nextSeq = k.nextSeq ∧ k'.records.map KeyRec.keyId = k.records.map KeyRec.keyId ∧
  k'.records.map KeyRec.loadSeq = k.records.map KeyRec.loadSeq

/-- Every slot of the table holds what it held; reference counts may differ. -/
def SameSlots (t t' : Table) : Prop :=
  (∀ i, (t'.profiles.get i).content = (t.profiles.get i).content) ∧
  ∀ i, (t'.classes.get i).content = (t.classes.get i).content

/-! ## Words for what a request does -/

/-- An entry of the outbound queue is free and no RESET FULL waits to take effect: a request at its owner is taken
(R174, R182). -/
def State.entryFree (s : State) : Prop := s.link.occupied < 32 ∧ s.link.resetPending = false

/-- The state with one more message in the transmit order: a reply (R175). -/
def State.withReply (s : State) (kind tag : Nat) (st : Status) (body : List Byte) : State :=
  s.setLink { s.link with placed := s.link.placed ++ [.reply kind tag st body] }

/-- The state with a reply placed next, and after it whatever further messages. -/
def Replied (kind tag : Nat) (st : Status) (body : List Byte) (s t : State) : Prop :=
  s.link.placed ++ [.reply kind tag st body] <+: t.link.placed

/-- The replies RESET BAYS gives to pending passes, in bay order (R61, R181). -/
def State.passReplies (s : State) : List OutMsg :=
  allBays.flatMap (fun b => match (s.port b).tunnel with
    | none => []
    | some t => match t.pass with
      | .none => []
      | .queued tag => [.reply 17 tag .badState []]
      | .sent tag => [.reply 17 tag .badState []])

/-- A free port with nothing before it: what is placed on it is sent at once (R43, R53). -/
def Port.free (p : Port) : Prop :=
  p.outstanding = none ∧ p.linkAlive = true ∧ p.hold = .none ∧ p.queue = [] ∧ p.keepDue = false

/-- A request stands sent on a bay's set port: it is outstanding with the timeout of its kind after its transmission time, and
its frame is the last put on the line (R43, R45; log entry 6). -/
def SentNow (b : Bay) (r : PortReq) (s t : State) : Prop :=
  (t.port b).outstanding = some { req := r, deadline := s.now + r.bytes.length * 200 + ms (answerTimeoutMs r.what.kind) } ∧
  t.out.sptx.get b = r.bytes

/-- A message is a notice. -/
def OutMsg.isNotice : OutMsg → Bool
  | .reply _ _ _ _ => false
  | .notice _ _ => true

/-- The line link once a pass QUEUED at a bay has been replied BAD_STATE without an answer (R61). -/
def State.passReplied (s : State) (b : Bay) : Link :=
  match (s.port b).tunnel with
  | none => s.link
  | some x =>
    match x.pass with
    | .queued tag => s.link.fillReply 17 tag .badState []
    | _ => s.link

/-- No pass of a bay is out at its set: it has no tunnel record, or is in TUNNEL with no pass SENT. -/
def State.NoPassOut (s : State) (b : Bay) : Prop :=
  (s.port b).tunnel = none ∨ (s.bay b).state = .tunnel ∧ (s.port b).passSent = false

/-- A fault taken at a bay (R21, R22). In a from-state of R21 the bay becomes FAULTED with that cause alone, its timers stopped, its
identity and job kept; where no pass is out at the set, a QUEUED one is replied, and the FAULT notice is the next message placed
when there is room for it (R61; for a lapse and a timeout the order is the model's choice, log entry 44, and for a refusal
other than a KEEP's the reply, log entry 47). No notice about the bay
follows it, that of a key voided by its own cleanup included, so that where no other bay waits for a key the line link has taken no
other message (R21, R154). A bay already FAULTED stays as it is, the cause placed at the end of its list, or the overflow flag set,
and no notice is placed or counted (R22). -/
def FaultTaken (b : Bay) (cause : FaultCause) (detail : Nat) (s t : State) : Prop :=
  (isOrigin (s.bay b).state →
    (t.bay b).state = .faulted ∧ (t.bay b).origin = some (s.bay b).state ∧ (t.bay b).faults = [cause] ∧
    (t.bay b).overflow = false ∧ (t.bay b).attachTimer = none ∧ (t.bay b).settleTimer = none ∧
    (t.bay b).identity = (s.bay b).identity ∧ (t.bay b).job.map Job.keyless = (s.bay b).job.map Job.keyless ∧
    (s.link.resetPending = false → s.NoPassOut b → (s.passReplied b).occupied < 28 →
      (s.passReplied b).placed ++ [.notice s.link.lostPending (.fault b cause (s.bay b).state (s.bay b).stage? detail)] <+:
        t.link.placed) ∧
    (s.link.resetPending = false → s.NoPassOut b → (∀ w ∈ s.stock.waiting, w.bay = b) →
      t.link = (s.passReplied b).offerNotice (.fault b cause (s.bay b).state (s.bay b).stage? detail))) ∧
  ((s.bay b).state = .faulted →
    ((s.port b).tunnel = none → t.link = s.link) ∧
    t.link.placed.filter OutMsg.isNotice = s.link.placed.filter OutMsg.isNotice ∧ t.link.lost = s.link.lost ∧
    t.link.lostPending = s.link.lostPending ∧
    (t.bay b).state = .faulted ∧ (t.bay b).origin = (s.bay b).origin ∧
    ((s.bay b).faults.length < 4 →
      (t.bay b).faults = (s.bay b).faults ++ [cause] ∧ (t.bay b).overflow = (s.bay b).overflow) ∧
    (4 ≤ (s.bay b).faults.length → (t.bay b).faults = (s.bay b).faults ∧ (t.bay b).overflow = true))

/-- The port sends what is placed on it as soon as its outstanding request has ended. -/
def Port.freeNext (p : Port) : Prop := p.linkAlive = true ∧ p.hold = .none ∧ p.queue = [] ∧ p.keepDue = false

/-- A bay's job of a stage. -/
def State.worksOn (s : State) (b : Bay) (st : Stage) (j : Job) : Prop :=
  (s.bay b).state = .running ∧ (s.bay b).job = some j ∧ j.stage = st

/-- The slots that a bay's job references lose one reference each: its profile slot and its record's class slot (R159). -/
def RefsDropped (b : Bay) (j : Job) (s t : State) : Prop :=
  let dropped := s.table.refProfile j.slot (fun n => n - 1)
  t.table = match (s.bay b).identity with
    | none => dropped
    | some i => dropped.refClass i.classId (fun n => n - 1)

/-- A job ends with a verdict: the bay is STOPPED, the job closed and otherwise as it was, its slots no longer referenced by it
(R19, R159). -/
def JobEnded (b : Bay) (j : Job) (v : Verdict) (s t : State) : Prop :=
  (t.bay b).state = .stopped ∧ (t.bay b).job = some { j with verdict := some v } ∧ (t.seq b).phase = .idle ∧ RefsDropped b j s t

/-- A notice is the next message placed, where there is room for one. -/
def Noticed (n : Notice) (s t : State) : Prop :=
  s.link.resetPending = false → s.link.occupied < 28 → s.link.placed ++ [.notice s.link.lostPending n] <+: t.link.placed

/-- Notices are the next messages placed, in this order, where there is room for them all. -/
def NoticedInTurn (l : List Notice) (s t : State) : Prop :=
  match l with
  | [] => True
  | n :: rest =>
    s.link.resetPending = false → s.link.occupied + rest.length < 28 →
      s.link.placed ++ .notice s.link.lostPending n :: rest.map (OutMsg.notice false) <+: t.link.placed

/-! ## Words for what is placed, asked for and withdrawn -/

/-- Requests are placed on a bay's port `p` one after the other (R43, R53): behind an outstanding request they join the queue;
a free port sends the first of them, or a KEEP that is due with no section open; a set in hold is sent the WAKE among them. -/
def PlacedInTurn (b : Bay) (p : Port) (l : List PortReq) (s t : State) : Prop :=
  (p.outstanding.isSome = true → (t.port b).queue = p.queue ++ l ∧ (t.port b).outstanding = p.outstanding) ∧
  (p.outstanding = none → p.linkAlive = true → p.queue = [] →
    (p.hold = .none → p.keepDue = false ∨ p.openSection.isSome = true →
      match l with
      | [] => (t.port b).queue = [] ∧ (t.port b).outstanding = none
      | r :: rest => SentNow b r s t ∧ (t.port b).queue = rest) ∧
    (p.hold = .none → p.keepDue = true → p.openSection = none → l ≠ [] →
      SentNow b (bareReq .keep .work) s t ∧ (t.port b).queue = l) ∧
    (p.hold = .held → ∀ w, l.find? PortReq.isWake = some w →
      SentNow b w s t ∧ (t.port b).hold = .waking ∧ (t.port b).queue = l.erase w))

/-- What a port needs to bring its set out of a section, of hold and of a field (R26, R129): CLOSE SECTION, WAKE and DARK in this
order, each only where it applies and none of its kind is queued or outstanding. -/
def Port.owed (p : Port) (showing : Bool) : List PortReq :=
  (match p.openSection with
    | none => []
    | some id => if p.has PortReq.isClose then [] else [closeReq id]) ++
  (if p.hold = .held ∧ p.has PortReq.isWake = false then [bareReq .wake .cleanup] else []) ++
  (if showing = true ∧ p.has PortReq.isDark = false then [bareReq .dark .cleanup] else [])

/-- A port once cleanup has withdrawn what its bay controller had queued: WAKE and CLOSE SECTION stay, and the end of the
outstanding request moves no job (R25, R26). -/
def Port.withdrawn (p : Port) : Port :=
  { p with queue := p.queue.filter (fun r => r.isWake || r.isClose), outstanding := p.outstanding.map Outstanding.orphaned,
           wakePending := p.wakePending || decide (p.hold = .entering) }

/-- A map frame with one section closed and PARTIAL (R25, R26). -/
def MapFrame.leftPartial (f : MapFrame) : Option Nat → MapFrame
  | none => f
  | some id => { f with sections := f.sections.modify id (fun c => { c with outcome := .incomplete }) }

/-- The key stock's part of a cleanup (R154): the bay's RESERVED record returns unless a waiting bay takes it, its SENDING
record is VOIDED at the bay's serial, and no record names the bay. -/
def KeysGivenUp (b : Bay) (s t : State) : Prop :=
  StockOk s.stock → s.stock.claimants.Nodup →
    (∀ r ∈ t.stock.records, r.state.bay? ≠ some b) ∧
    (∀ r ∈ s.stock.records, r.state = .sending b →
      { r with state := .voided (some (s.bay b).serial) .cleanup, blob := none } ∈ t.stock.records) ∧
    (∀ r ∈ s.stock.records, r.state = .reserved b →
      (∀ w ∈ s.stock.waiting, w.bay ≠ b → fits w.cls w.region r = false) →
      { r with state := .available } ∈ t.stock.records)

/-- A FRAME REQUEST is sent to the probe of a bay whose record stands as `p` (R80): the sequence goes up by one, from 255 to 0, and
with the step and the grid stands in the outstanding request, whose timeout is the exposure and 200 ms from the last byte's leaving
(DEDUCED, log entry 6); its frame is the last put on the probe port's line. -/
def FrameAsked (b : Bay) (p : Probe) (cols rows : Nat) (s t : State) : Prop :=
  let n := (p.seqNo + 1) % 256
  let bytes := frameBytes 60 [1, byteOf n, byteOf p.step, byteOf cols, byteOf rows]
  let deadline := s.now + bytes.length * 25 + 576 * 2 ^ (p.step - 1) + ms 200
  t.probe b = { p with seqNo := n, outstanding := some { isRef := false, seqNo := n, step := p.step, cols := cols, rows := rows,
                                                          deadline := deadline } } ∧
  t.out.pptx.get b = bytes

/-- A REFERENCE REQUEST is sent to the probe of a bay whose record stands as `p`: as a FRAME REQUEST, with no step or grid and an
exposure of 16 ms (R80; DEDUCED, log entry 6). -/
def ReferenceAsked (b : Bay) (p : Probe) (s t : State) : Prop :=
  let n := (p.seqNo + 1) % 256
  let bytes := frameBytes 60 [2, byteOf n]
  t.probe b = { p with seqNo := n, outstanding := some { isRef := true, seqNo := n, step := 0, cols := 0, rows := 0,
                                                          deadline := s.now + bytes.length * 25 + ms 16 + ms 200 } } ∧
  t.out.pptx.get b = bytes

/-- The exposure loop begins for an entry whose probe's record stands as `p`: its first exposure frame is asked for, at the class's
initial step where the step was not seeded (R78, R87). Where it was not, the class is loaded (R78). -/
def ExposureBegun (x : Entry) (p : Probe) (s t : State) : Prop :=
  t.engine.current = some { phase := .exposing, entry := x, exposures := 1, accepted := [], discarded := 0 } ∧
  (p.seeded = true → FrameAsked x.bay p x.cols x.rows s t) ∧
  (p.seeded = false → ∀ c, s.bayClass x.bay = some c →
    FrameAsked x.bay { p with step := c.initStep, seeded := true } x.cols x.rows s t)

/-- An IDLE engine chooses from the queue `q` (R83, R85, R87): it takes the oldest entry whose probe is WARM, passing over older
ones whose probe is not, and sends its probe a REFERENCE REQUEST where a reference is due (R79), else the first FRAME REQUEST of the
exposure loop; with none it stays IDLE and sends nothing. -/
def EngineChose (q : List Entry) (s t : State) : Prop :=
  match q.find? (fun x => decide ((s.probe x.bay).warm = .warm)) with
  | none => t.engine.current = none ∧ t.out.pptx = s.out.pptx
  | some x =>
    let p := s.probe x.bay
    if s.link.params.refInterval ≤ p.count ∨ p.fault = true then
      t.engine.current = some { phase := .referencing, entry := x, exposures := 0, accepted := [], discarded := 0 } ∧
      ReferenceAsked x.bay p s t
    else ExposureBegun x p s t

/-- The entry of a bay leaves an engine at work on it: the engine is IDLE again and chooses from the other entries (R93, R95). -/
def EngineFreed (b : Bay) (s t : State) : Prop :=
  s.engine.currentBay = some b → EngineChose (s.engine.queue.filter (fun x => decide (x.bay ≠ b))) s t

/-- Cleanup in its fault and abort form, at a bay whose port stood as `p` and whose set held the section `open?` (R25, R26,
R68, R94, R95, R153, R154): the admission request, admission, capture entry, solve, key claims and settle timer are gone; the key transfer is
HALTED while a chunk or KEY END is outstanding, else IDLE with no key; an engine that was taking the bay's entry chooses the next
(R95); the section is recorded PARTIAL, but not behind an OPEN SECTION still outstanding (R126; log entry 8); with link-alive the
port is left what it owes its set, without it nothing, the showing flag cleared. -/
def CleanedUp (b : Bay) (open? : Option Nat) (p : Port) (s t : State) : Prop :=
  t.gov.queue <:+ s.gov.queue.filter (fun w => decide (w.bay ≠ b)) ∧ (∀ h ∈ t.gov.held, h.bay ≠ b) ∧
  (t.bay b).settleTimer = none ∧ (t.bay b).entry = none ∧
  ((s.bay b).entry.isSome = true →
    (∀ e ∈ t.engine.queue, e.bay ≠ b) ∧ t.engine.currentBay ≠ some b ∧ EngineFreed b s t) ∧
  t.solve b = none ∧ (∀ w ∈ t.stock.waiting, w.bay ≠ b) ∧ KeysGivenUp b s t ∧
  (t.bay b).job.bind Job.keyId = none ∧
  (p.outIs PortReq.isKeyTransfer = true → t.xfer b = { s.xfer b with phase := .halted }) ∧
  (p.outIs PortReq.isKeyTransfer = false → (t.xfer b).phase = .idle ∧ (t.xfer b).keyId = none) ∧
  (t.area b).frame = (s.area b).frame.map (fun f =>
    f.leftPartial (if p.linkAlive = true ∧ p.outIs PortReq.isOpen = true then none else open?)) ∧
  (p.linkAlive = true → (t.bay b).showing = (s.bay b).showing ∧
    (p.hold = .entering → (t.port b).wakePending = true) ∧
    PlacedInTurn b p.withdrawn (p.withdrawn.owed (s.bay b).showing) s t) ∧
  (p.linkAlive = false → (t.bay b).showing = false ∧ (t.port b).openSection = none ∧
    (t.port b).queue = p.withdrawn.queue ∧ (t.port b).outstanding = p.withdrawn.outstanding)

/-- With the withdrawal of a capture entry whose capture has completed, so that it has left the queue, the row of the bay's patch
returns to unfilled; every other row stays, and with the entry still in the queue every row (R25 item 2, R71, R95, R96, R103). -/
def RowReturned (b : Bay) (s t : State) : Prop :=
  let own := if (s.bay b).entry.isSome = true ∧ ∀ e ∈ s.engine.queue, e.bay ≠ b then cursorRow (s.bay b) else none
  ∀ i, i < 15 → (t.area b).row i = if own = some i then none else (s.area b).row i

/-- A fault in a from-state runs cleanup and halts the sequencer where a transfer is in hand, its cursors and counts kept
(R21, R127). -/
def FaultCleansUp (b : Bay) (open? : Option Nat) (p : Port) (s t : State) : Prop :=
  isOrigin (s.bay b).state →
    CleanedUp b open? p s t ∧ t.seq b = { s.seq b with phase := if (s.seq b).phase = .idle then .idle else .halted }

/-- A bay requests an admission of the governor `g` (R64, R66, R67): behind others it joins the tail; alone it is granted at
once when its earliest instant has come, else the head timer is armed for it. What it is granted it holds, whatever DARK of an
earlier field waits or is sent (R58, R69; DEDUCED, log entry 11). -/
def AdmissionAsked (b : Bay) (g : Governor) (s t : State) : Prop :=
  let own : Waiting := { bay := b, joined := s.now }
  let first := earliestGrant g s.link.params b s.now
  (g.queue ≠ [] → t.gov = { g with queue := g.queue ++ [own] }) ∧
  (g.queue = [] → s.now < first → t.gov = { g with queue := [own], headTimer := some first }) ∧
  (g.queue = [] → first ≤ s.now → (∀ r ∈ (s.port b).queue, r.endsAdmission = false) →
    t.gov.queue = [] ∧ t.gov.headTimer = none ∧ t.gov.history = { time := s.now, bay := b } :: g.history ∧
    t.gov.held = g.held ++ [{ bay := b, granted := s.now, expires := s.now + ms s.link.params.holdLimit }])

/-- A bay begins the patch at the cursor of its job `j`, its port standing as `p` (R12, R63, R64): a patch below the threshold is
shown; a high-drive one asks for an admission, and is shown at once where that is granted at once. -/
def PatchBegun (b : Bay) (j : Job) (p : Port) (s t : State) : Prop :=
  ∀ c, s.bayClass b = some c →
    let shown := showReq (patchAt j).channel (patchAt j).level
    (highDrive c.threshold (patchAt j) = false → PlacedInTurn b p [shown] s t) ∧
    (highDrive c.threshold (patchAt j) = true → b ∉ s.gov.claimants → AdmissionAsked b s.gov s t ∧
      (s.gov.queue = [] → earliestGrant s.gov s.link.params b s.now ≤ s.now → p.freeNext → SentNow b shown s t))

/-- A port as the next request placed on it finds it, the requests `l` placed before it: the outstanding one, the queue and `l` all
go first (R43, R53). -/
def Port.ahead (p : Port) (l : List PortReq) : Port :=
  { p with queue := (p.outstanding.map Outstanding.req).toList ++ p.queue ++ l }

/-- A bay RUNNING in KEYS with job `j` asks the stock `k` for the class at its key cursor, its port standing as `p`, after the
notices `before` (R17, R143, R144, R147 to R150). The list done, FINISH begins; with no record that fits, the bay waits and
HOLD is placed; a record that fits becomes the current key, and by the hold state its transfer starts, or the set is woken
first; one that fails the pre-send check is VOIDED, and where no other fits the bay waits. -/
def KeyAsked (b : Bay) (j : Job) (k : Stock) (p : Port) (before : List Notice) (s t : State) : Prop :=
  ∀ prof, s.bayProfile b = some prof →
    (prof.keyClasses.drop j.keyCursor = [] →
      (t.bay b).job = some { j with stage := .finish } ∧ NoticedInTurn (before ++ [.stage b .finish j.pass]) s t ∧
      (p.freeNext → SentNow b (bareReq .finish .work) s t)) ∧
    ∀ c rest, prof.keyClasses.drop j.keyCursor = c :: rest →
      let suits (r : KeyRec) := decide (r.state = .available) && fits c prof.region r
      (k.records.find? suits = none →
        (t.bay b).job = some j ∧
        t.stock = { k with waiting := k.waiting ++ [{ bay := b, cls := c, region := prof.region, joined := s.now }] } ∧
        NoticedInTurn (before ++ [.stockShort b c prof.region]) s t ∧
        (p.freeNext → SentNow b (bareReq .hold .work) s t ∧ (t.port b).hold = .entering)) ∧
      ∀ r, k.records.find? suits = some r →
        let n := (r.blobLen + 255) / 256
        let mine (st : KeyState) := t.stock.find r.keyId = some { r with state := st }
        (p.hold = .none → crc32 (r.blob.getD []) = r.check →
          (t.bay b).job = some { j with keyId := some r.keyId } ∧
          t.xfer b = { phase := .chunks, keyId := some r.keyId, chunks := n, cursor := 0 } ∧
          (mine (.reserved b) ∨ mine (.sending b)) ∧ NoticedInTurn before s t ∧
          (p.freeNext → mine (.sending b) ∧ SentNow b (chunkReq r.cls 0 n (r.blob.getD [])) s t)) ∧
        (p.hold = .none → crc32 (r.blob.getD []) ≠ r.check →
          { r with state := .voided none .preSendCheck, blob := none } ∈ t.stock.records ∧
          NoticedInTurn (before ++ [.keyVoided r.keyId r.cls r.batch b none .preSendCheck]) s t ∧
          ((∀ x ∈ k.records, x ≠ r → suits x = false) → (t.bay b).job = some { j with keyId := none } ∧
            { bay := b, cls := c, region := prof.region, joined := s.now } ∈ t.stock.waiting)) ∧
        (p.hold ≠ .none → (t.bay b).job = some { j with keyId := some r.keyId } ∧ mine (.reserved b)) ∧
        (p.hold = .entering → (t.port b).wakePending = true) ∧
        (p.hold = .held → p.linkAlive = true → p.outstanding = none → (∀ x ∈ p.queue, x.isWake = false) →
          SentNow b (bareReq .wake .work) s t ∧ (t.port b).hold = .waking)

/-- The state after a run of commands, each of which answers a next state. -/
def execAll : List Instr → State → Option State
  | [], s => some s
  | i :: rest, s =>
    match exec i s with
    | .next t => execAll rest t
    | .fault _ => none
    | .refused _ => none

/-- The table of R180 with its further checks: the values a parameter number admits while others are in force. -/
def paramAdmitted (p : Params) (number v : Nat) : Prop :=
  (number = 1 ∧ 5 ≤ v ∧ v ≤ 600) ∨ (number = 2 ∧ 10 ≤ v ∧ v ≤ 3600) ∨ (number = 3 ∧ 60 ≤ v ∧ v ≤ 36000) ∨
  (number = 4 ∧ 200 ≤ v ∧ v ≤ 5000 ∧ v % 100 = 0 ∧ v + 500 ≤ p.serviceDeadline) ∨
  (number = 5 ∧ 1000 ≤ v ∧ v ≤ 10000 ∧ p.keepInterval + 500 ≤ v) ∨ (number = 6 ∧ 400 ≤ v ∧ v ≤ 10000) ∨
  (number = 7 ∧ v ≤ 2000 ∧ p.crossRail ≤ v) ∨ (number = 8 ∧ v ≤ 2000 ∧ v ≤ p.sameRail) ∨
  (number = 9 ∧ 1000 ≤ v ∧ v ≤ 10000) ∨ (number = 10 ∧ 8 ≤ v ∧ v ≤ 255)

end Sys2Proof.Machine
end

