-- ==== Sys2Proof/WellFormed.lean ====
section
/-! DEFINITION. Well-formed commands: every operand of a line request fits the width that the layouts of R184 and R187
give its field, so that the command is one a frame of the line link can carry. -/

namespace Sys2Proof

/-- A field of one byte. -/
abbrev fits8 (n : Nat) : Bool := decide (n < 256)

/-- A field of two bytes. -/
abbrev fits16 (n : Nat) : Bool := decide (n < 65536)

/-- A field of four bytes. -/
abbrev fits32 (n : Nat) : Bool := decide (n < 4294967296)

/-- A request's tag: 1 to 255 (R184); tag 0 belongs to notices (R174). -/
abbrev tagOk (n : Nat) : Bool := decide (1 ≤ n) && fits8 n

/-- A list with a count byte, each item within its width (R187). -/
def listOk (fits : Nat → Bool) (l : List Nat) : Bool := fits8 l.length && l.all fits

/-- An optional field. -/
def optOk {α : Type} (ok : α → Bool) : Option α → Bool
  | none => true
  | some x => ok x

def JobArgs.wf (p : JobArgs) : Bool :=
  optOk (listOk fits16) p.levels && optOk fits8 p.samples && optOk fits16 p.target && optOk fits16 p.floorRatio &&
  optOk fits8 p.tolerance && optOk fits8 p.iterLimit && optOk (listOk fits16) p.mask

def ProfileFields.wf (p : ProfileFields) : Bool :=
  listOk fits8 p.systems && fits8 p.languages.length && fits8 p.frameRate && fits8 p.drive && fits16 p.powerCap &&
  listOk fits8 p.keyClasses

def ClassFields.wf (c : ClassFields) : Bool :=
  fits8 c.cols && fits8 c.rows && fits16 c.settle && fits16 c.threshold && fits8 c.initStep

/-- The body of a KEY LOAD is 14 + 3N + B bytes (R187) and a body holds at most 1,017 (R184). -/
def KeyFields.wf (k : KeyFields) : Bool :=
  fits32 k.keyId && fits8 k.cls && fits8 k.regions.length && fits16 k.batch && fits16 k.blobLen &&
  decide (14 + 3 * k.regions.length + k.blob.length ≤ 1017)

/-- Well-formedness of a command. Events carry bytes, samples and bay numbers that are in range by their types. -/
def Instr.wf : Instr → Bool
  | .powerOn => true
  | .lineByteReceived _ => true
  | .lineBreak => true
  | .dispatch => true
  | .outboundMessageSent => true
  | .ident tag => tagOk tag
  | .status tag => tagOk tag
  | .configure tag number value => tagOk tag && fits8 number && fits32 value
  | .resetFull tag => tagOk tag
  | .resetBays tag => tagOk tag
  | .jobStart tag bay slot args => tagOk tag && fits8 bay && fits8 slot && args.wf
  | .jobAbort tag bay => tagOk tag && fits8 bay
  | .bayResume tag bay => tagOk tag && fits8 bay
  | .bayRelease tag bay => tagOk tag && fits8 bay
  | .bayPark tag bay => tagOk tag && fits8 bay
  | .bayUnpark tag bay => tagOk tag && fits8 bay
  | .bayQuery tag bay => tagOk tag && fits8 bay
  | .tunnelEnter tag bay => tagOk tag && fits8 bay
  | .tunnelPass tag bay carried => tagOk tag && fits8 bay && decide (carried.length ≤ 1016)
  | .tunnelExit tag bay => tagOk tag && fits8 bay
  | .sheetRead tag bay row start count => tagOk tag && fits8 bay && fits8 row && fits16 start && fits16 count
  | .mapRead tag bay sec start count => tagOk tag && fits8 bay && fits8 sec && fits16 start && fits16 count
  | .keyLoad tag key => tagOk tag && key.wf
  | .keyWithdrawById tag keyId => tagOk tag && fits32 keyId
  | .keyWithdrawByBatch tag batch => tagOk tag && fits16 batch
  | .keyPurgeAll tag => tagOk tag
  | .keyPurgeBatch tag batch => tagOk tag && fits16 batch
  | .stockQueryCounts tag => tagOk tag
  | .stockQueryRun tag start count => tagOk tag && fits32 start && fits8 count
  | .stockQueryRecord tag keyId => tagOk tag && fits32 keyId
  | .profileLoad tag slot fields => tagOk tag && fits8 slot && fields.wf
  | .profileDrop tag slot => tagOk tag && fits8 slot
  | .classLoad tag classId fields => tagOk tag && fits8 classId && fields.wf
  | .classDrop tag classId => tagOk tag && fits8 classId
  | .poll _ _ => true
  | .attachTimerExpiry _ => true
  | .settleTimerExpiry _ => true
  | .setAnswerReceived _ _ => true
  | .setRequestTimeout _ => true
  | .keepDue _ => true
  | .lapse _ => true
  | .headTimerExpiry => true
  | .overtimeExpiry _ => true
  | .grantHistoryExpiry => true
  | .warmUpExpiry _ => true
  | .probeMessageReceived _ _ => true
  | .probeRequestTimeout _ => true
  | .solveDone _ => true

end Sys2Proof
end

