-- ==== Sys2Proof/Certificates/Slice0/Obligations.lean ====
section
/-! DEFINITION. The statements handed to the provers. Line requests are stated at their owner: an entry of the outbound queue
is free (`State.entryFree`) and the tag is one a request may carry. -/

open Sys2Proof Sys2Proof.Machine

/-! ## The queue of commands -/

/-- The command at the front of the queue runs on the state with the queue's rest. -/
def Obligations.StepRunsTheFrontCommand : Prop :=
  ∀ (c : Instr) (rest : List Instr) (s : State), step { s with pending := c :: rest } = exec c { s with pending := rest }

/-- On an empty queue one tick of the clock passes, unless a timer stands expired (the model's choice, log entry 1). An expiry
whose timer has not expired, and a SOLVE_DONE with no solve in progress, change nothing (the model's choice, log entries 2 and
31). -/
def Obligations.TimePassesAndAnEventNotDueChangesNothing : Prop :=
  (∀ s : State, s.pending = [] → step s = .next (if anyDue s = true then s else { s with now := s.now + 1 })) ∧
  ∀ (b : Bay) (closed : Bool) (s : State),
    ((∀ t, (s.poller b).next = some t → s.now < t) → exec (.poll b closed) s = .next s) ∧
    ((∀ t, (s.bay b).attachTimer = some t → s.now < t) → exec (.attachTimerExpiry b) s = .next s) ∧
    ((∀ t, (s.bay b).settleTimer = some t → s.now < t) → exec (.settleTimerExpiry b) s = .next s) ∧
    ((∀ o, (s.port b).outstanding = some o → s.now < o.deadline) → exec (.setRequestTimeout b) s = .next s) ∧
    (keepFallsDue s b = false → exec (.keepDue b) s = .next s) ∧
    (lapseReached s b = false → exec (.lapse b) s = .next s) ∧
    ((∀ t, s.gov.headTimer = some t → s.now < t) → exec .headTimerExpiry s = .next s) ∧
    ((∀ h ∈ s.gov.held, h.bay = b → s.now < h.expires) → exec (.overtimeExpiry b) s = .next s) ∧
    ((∀ g ∈ s.gov.history, s.now < g.time + ms 10000) → exec .grantHistoryExpiry s = .next s) ∧
    ((∀ t, (s.probe b).warm = .warming t → s.now < t) → exec (.warmUpExpiry b) s = .next s) ∧
    ((∀ o, (s.probe b).outstanding = some o → s.now < o.deadline) → exec (.probeRequestTimeout b) s = .next s) ∧
    (s.solve b = none → exec (.solveDone b) s = .next s)

/-- Every command answers a next state (the model's reading, log entry 35) and leaves the queue as it is (log entry 34). -/
def Obligations.EveryCommandAnswersANextState : Prop :=
  ∀ (i : Instr) (s : State), ∃ t, exec i s = .next t ∧ t.pending = s.pending

/-! ## Requests at dispatch (R174) -/

/-- With an entry free, a request of tag 0 is replied BAD_FIELD and does nothing else (R174). With no entry free, or a RESET FULL
waiting, a request and dispatch wait and nothing changes (R174, R182; log entry 3). Dispatch of a frame of tag 0 replies BAD_FIELD,
of one of an unknown kind BAD_KIND with its kind byte repeated, and the frame leaves the input buffer; so does one of a known kind
whose body is the body of no well-formed request of that kind, being too short or too long, or having a list that disagrees with
its count or a scope or mode that R181 and R187 do not name, and it is replied BAD_FIELD with its kind and tag; with the buffer empty
nothing happens (R174, R181, R184, R187). A frame's body holds at most 1,017 bytes (R184). The forms of a body that R187 leaves open
are the model's choice, log entries 17 and 20. -/
def Obligations.DispatchJudgesTagAndKindOrWaits : Prop :=
  let kinds := [1, 2, 3, 4, 8, 9, 10, 11, 12, 13, 14, 16, 17, 18, 20, 21, 24, 25, 26, 27, 28, 29, 30, 31]
  (∀ (i : Instr) (kind : Nat) (s : State), requestHead i = some (kind, 0) → s.entryFree →
    exec i s = .next (s.withReply kind 0 .badField [])) ∧
  (∀ (i : Instr) (s : State), ¬ s.entryFree → (requestHead i).isSome = true ∨ i = .dispatch → exec i s = .next s) ∧
  ∀ s : State, s.entryFree →
    (s.link.inBuf = [] → exec .dispatch s = .next s) ∧
    (∀ f rest, s.link.inBuf = f :: rest →
      (f.tag = 0 → exec .dispatch s =
        .next ((s.setLink { s.link with inBuf := rest }).withReply f.kind.toNat 0 .badField [])) ∧
      (f.tag ≠ 0 → f.kind.toNat ∉ kinds → exec .dispatch s =
        .next ((s.setLink { s.link with inBuf := rest }).withReply f.kind.toNat f.tag.toNat .badKind [])) ∧
      (f.tag ≠ 0 → f.kind.toNat ∈ kinds → f.body.length ≤ 1017 →
        (∀ i, requestHead i = some (f.kind.toNat, f.tag.toNat) → i.wf = true → requestBody i ≠ f.body) →
        exec .dispatch s =
          .next ((s.setLink { s.link with inBuf := rest }).withReply f.kind.toNat f.tag.toNat .badField [])))

/-- A well-formed request's frame, at the head of the input buffer, is dispatched as that request with every operand as it was
sent: the reading of R186 and R187 undoes their writing, for every request and every value its fields admit (forms of log
entries 17 and 20). -/
def Obligations.DispatchRunsTheRequestItsFrameSpells : Prop :=
  ∀ (i : Instr) (kind tag : Nat) (rest : List InFrame) (s : State),
    requestHead i = some (kind, tag) → i.wf = true → s.entryFree →
    s.link.inBuf = requestFrame kind tag (requestBody i) :: rest →
    exec .dispatch s = exec i (s.setLink { s.link with inBuf := rest })

/-- A bay number outside 0 to 3 is refused with BAD_FIELD by every request that names a bay. -/
def Obligations.ABayNumberOutsideIsRefused : Prop :=
  ∀ (tag bay slot row start count : Nat) (args : JobArgs) (carried : List Byte) (s : State),
    s.entryFree → 1 ≤ tag → 4 ≤ bay →
    ∀ c ∈ [(8, Instr.jobStart tag bay slot args), (9, .jobAbort tag bay), (10, .bayResume tag bay), (11, .bayRelease tag bay),
      (12, .bayPark tag bay), (13, .bayUnpark tag bay), (14, .bayQuery tag bay), (16, .tunnelEnter tag bay),
      (17, .tunnelPass tag bay carried), (18, .tunnelExit tag bay), (20, .sheetRead tag bay row start count),
      (21, .mapRead tag bay row start count)], exec c.2 s = .next (s.withReply c.1 tag .badField [])

/-! ## Station (R178 to R182) -/

/-- IDENT replies the names, the revision, the sizes and the time since start, and changes nothing else (R178). STATUS replies
the line link's items, counting the entry set aside for this reply, then the items of every other block, and sets the five counts
to 0 (R179). The forms of items R187 leaves open are the model's choice, log entries 17 to 19; so is the dropping of a fraction of a
millisecond of the time since start, log entry 18. -/
def Obligations.IdentAndStatusReportThePart : Prop :=
  ∀ (tag : Nat) (s : State), s.entryFree → 1 ≤ tag →
    exec (.ident tag) s = .next (s.withReply 1 tag .ok
      ([7, 78, 97, 108, 98, 114, 105, 111] ++ [6, 87, 75, 52, 50, 52, 48] ++ [1] ++ be16 1024 ++ [4] ++ [32] ++ [4] ++ [16] ++
        [8] ++ be16 2048 ++ be32 262144 ++ be32 (s.now / 2304 % 4294967296))) ∧
    exec (.status tag) s = .next
      ((s.setLink { s.link with lost := 0, errs := { length := 0, crc := 0, brk := 0, overrun := 0 } }).withReply 2 tag .ok
        (b1 s.link.inBuf.length ++ b1 (s.link.occupied + 1) ++ be16 s.link.lost ++ bFlag s.link.lostPending ++
          be16 s.link.errs.length ++ be16 s.link.errs.crc ++ be16 s.link.errs.brk ++ be16 s.link.errs.overrun ++
          stationBody s ++ eachBay (bayStatus s) ++ govBody s.gov s.link.params s.now ++ engineBody s.engine s.now ++
          tableBody s.table ++ stockBody s.stock))

/-- CONFIGURE: the checks of R180 in order, then the value in force and in the reply. A shorter keep-alive interval makes a
KEEP due at every port whose running clock stands at or above it, which a free port sends; a shorter service deadline takes a
lapse at every port whose running lapse clock stands at or above it; every other port keeps its clocks (R52). That the reply is
placed before these acts and that the ports act in bay order is the model's choice, log entry 15. -/
def Obligations.ConfigureFollowsItsChecks : Prop :=
  ∀ (tag number v : Nat) (s : State), s.entryFree → 1 ≤ tag →
    let busy := ∃ b, (s.bay b).state = .running ∨ (s.bay b).state = .tunnel
    let params := s.link.params.put number v
    let done := (s.setLink { s.link with params := params }).withReply 3 tag .ok (b1 number ++ be32 v)
    (number = 0 ∨ 10 < number → exec (.configure tag number v) s = .next (s.withReply 3 tag .badField [])) ∧
    (1 ≤ number ∧ number ≤ 10 → busy → exec (.configure tag number v) s = .next (s.withReply 3 tag .badState [])) ∧
    (1 ≤ number ∧ number ≤ 10 → ¬ busy → ¬ paramAdmitted s.link.params number v →
      exec (.configure tag number v) s = .next (s.withReply 3 tag .badField [])) ∧
    (¬ busy → paramAdmitted s.link.params number v →
      (number ≠ 4 ∧ number ≠ 5 ∨ s.link.params.get number ≤ v) → exec (.configure tag number v) s = .next done) ∧
    (¬ busy → paramAdmitted s.link.params number v →
      ∃ t, exec (.configure tag number v) s = .next t ∧ t.link.params = params ∧
        Replied 3 tag .ok (b1 number ++ be32 v) s t ∧
        ∀ b, (number = 4 → v < s.link.params.keepInterval →
            let reached := (s.port b).linkAlive = true ∧ ((s.port b).hold = .none ∨ (s.port b).hold = .entering) ∧
              ∃ base since, (s.port b).keepClock = .running base since ∧ ms v ≤ base + (s.now - since)
            SameCore (s.bay b) (t.bay b) ∧ (¬ reached → t.port b = s.port b) ∧
            (reached → (s.port b).outstanding = none → (s.port b).hold = .none → (s.port b).openSection = none →
              SentNow b (bareReq .keep .work) s t ∧ (t.port b).keepDue = false) ∧
            (reached → (s.port b).outstanding.isSome = true ∨ (s.port b).hold = .entering ∨
                ((s.port b).openSection.isSome = true ∧ (s.port b).queue = []) →
              (t.port b).keepDue = true ∧ (t.port b).outstanding = (s.port b).outstanding ∧
                (t.port b).keepClock = (s.port b).keepClock)) ∧
          (number = 5 → v < s.link.params.serviceDeadline →
            let reached := (s.port b).linkAlive = true ∧ ((s.port b).hold = .none ∨ (s.port b).hold = .entering) ∧
              ∃ base since, (s.port b).lapseClock = .running base since ∧ ms v ≤ base + (s.now - since)
            (¬ reached → t.port b = s.port b ∧ t.bay b = s.bay b) ∧
            (reached → (t.port b).linkAlive = false ∧
              (isOrigin (s.bay b).state → (t.bay b).state = .faulted ∧ (t.bay b).origin = some (s.bay b).state ∧
                (t.bay b).faults = [.serviceLapsed]) ∧
              ((s.bay b).state = .faulted → (s.bay b).faults.length < 4 →
                (t.bay b).faults = (s.bay b).faults ++ [.serviceLapsed]))))

/-- RESET FULL is replied OK at once, and from then on the part waits for the reset to take effect. The first placed message
leaves the line and frees its entry; when it is the last one while a RESET FULL waits, every block takes its power-on values and
STARTED is placed (R175, R182). That LTX keeps its last frame is the model's choice, log entry 5; what reset leaves in the model's
own fields is log entries 22, 25 and 40. That a QUEUED pass stays queued, to be sent or not until the reset takes effect, is the
model's choice, log entry 24. -/
def Obligations.ResetFullFollowsTheLastMessage : Prop :=
  (∀ (tag : Nat) (s : State), s.entryFree → 1 ≤ tag →
    exec (.resetFull tag) s =
      .next ((s.setLink { s.link with resetPending := true }).withReply 4 tag .ok [])) ∧
  ∀ s : State,
    (s.link.placed = [] → exec .outboundMessageSent s = .next s) ∧
    (∀ m rest, s.link.placed = m :: rest → (s.link.resetPending = false ∨ rest ≠ []) →
      exec .outboundMessageSent s =
        .next ((s.setOut { s.out with ltx := m.bytes }).setLink { s.link with placed := rest })) ∧
    (∀ m, s.link.placed = [m] → s.link.resetPending = true →
      exec .outboundMessageSent s =
        .next { State.started .resetFull with pending := s.pending, out := { s.out with ltx := m.bytes } })

/-- Power-on leaves every block at its reset value, whatever was there before; the queue of commands stays. The reset values:
every bay EMPTY at WATCH with nothing docked, no timer running and every counter 0, its port down and clear with its clocks
stopped, its map area emptied (R3, R29, R30, R42, R117, R120, R148);
nothing queued, held or granted (R74); every probe WARMING at step 6 with factor 1024 and no capture counted (R98); no keys,
load sequence 1 (R156); empty slots (R167); the default parameters, and STARTED placed first with its lost flag clear
(R169, R180, R182). The model's own: keepTaken empty (log entry 22), the driven lines of State.out empty (log entry 5), a key
transfer's chunk count and cursor 0 (log entry 40), STARTED as already placed (log entry 25). -/
def Obligations.PowerOnGivesTheResetValues : Prop :=
  (∀ s : State, exec .powerOn s = .next { State.reset with pending := s.pending }) ∧
  (∀ b : Bay,
    (State.reset.bay b).state = .empty ∧ (State.reset.bay b).identity = none ∧ (State.reset.bay b).job = none ∧
    (State.reset.bay b).faults = [] ∧ (State.reset.bay b).origin = none ∧ (State.reset.bay b).overflow = false ∧
    (State.reset.bay b).requests = 0 ∧ (State.reset.bay b).discarded = 0 ∧ (State.reset.bay b).adjustments = 0 ∧
    (State.reset.bay b).overtimes = 0 ∧ (State.reset.bay b).attachTimer = none ∧ (State.reset.bay b).settleTimer = none ∧
    (State.reset.bay b).showing = false ∧ (State.reset.bay b).entry = none ∧
    (State.reset.poller b).level = .watch ∧ (State.reset.poller b).next = some 0 ∧
    (State.reset.poller b).emptyTime = .running 0 0 ∧ (State.reset.poller b).helloOut = false ∧
    (State.reset.poller b).helloAnswered = false ∧ (State.reset.port b).keepClock = .stopped ∧
    (State.reset.port b).lapseClock = .stopped ∧ (State.reset.port b).keepDue = false ∧
    (State.reset.port b).keepTaken = none ∧ (State.reset.port b).wakePending = false ∧
    (State.reset.port b).linkAlive = false ∧ (State.reset.port b).queue = [] ∧ (State.reset.port b).outstanding = none ∧
    (State.reset.port b).hold = .none ∧ (State.reset.port b).openSection = none ∧ (State.reset.port b).tunnel = none ∧
    (State.reset.seq b).phase = .idle ∧ (State.reset.seq b).sec = 0 ∧ (State.reset.seq b).burst = 0 ∧
    (∀ i, get12 (State.reset.seq b).rewrites i = 0 ∧ get12 (State.reset.seq b).confirmed i = 0) ∧
    (State.reset.xfer b).phase = .idle ∧ (State.reset.xfer b).keyId = none ∧ (State.reset.area b).frame = none ∧
    (∀ i, (State.reset.area b).rows.get i = none) ∧ State.reset.solve b = none ∧
    (State.reset.probe b).warm = .warming (ms 5000) ∧ (State.reset.probe b).step = 6 ∧
    (State.reset.probe b).factor = 1024 ∧ (State.reset.probe b).count = 0 ∧ (State.reset.probe b).fault = false ∧
    (State.reset.probe b).seeded = false ∧ (State.reset.probe b).seqNo = 0 ∧ (State.reset.probe b).outstanding = none) ∧
  State.reset.gov = { queue := [], headTimer := none, held := [], history := [], lastA := none, lastB := none } ∧
  State.reset.engine.queue = [] ∧ State.reset.engine.current = none ∧ State.reset.engine.lastNumber = 0 ∧
  State.reset.stock = { records := [], nextSeq := 1, waiting := [] } ∧
  (∀ i, State.reset.table.profiles.get i = { content := none, refs := 0 }) ∧
  (∀ i, State.reset.table.classes.get i = { content := none, refs := 0 }) ∧
  State.reset.link.rx = .hunt ∧ State.reset.link.inBuf = [] ∧ State.reset.link.placed = [.notice false (.started .powerOn)] ∧
  State.reset.link.setAside = 0 ∧ State.reset.link.lost = 0 ∧ State.reset.link.lostPending = false ∧
  State.reset.link.errs = { length := 0, crc := 0, brk := 0, overrun := 0 } ∧
  State.reset.link.params =
    { watchDown := 30, doze1Down := 120, doze2Down := 600, keepInterval := 800, serviceDeadline := 2000,
      grantWindow := 1600, sameRail := 400, crossRail := 150, holdLimit := 4000, refInterval := 48 } ∧
  State.reset.pending = [] ∧ State.reset.now = 0

/-! ## The receiver (R170 to R173) -/

/-- The receiver takes one byte by its phase: it hunts for the start byte, takes two length bytes and judges them, collects
the frame, and checks a complete one: CRC, room, accepted (R170, R171, R173). From an accepted RESET FULL on it discards what
it receives (R182). -/
def Obligations.TheReceiverTakesAByteByItsPhase : Prop :=
  ∀ (byte : Byte) (s : State),
    (s.link.resetPending = true → exec (.lineByteReceived byte) s = .next s) ∧
    (s.link.resetPending = false →
      (s.link.rx = .hunt → byte ≠ 165 → exec (.lineByteReceived byte) s = .next s) ∧
      (s.link.rx = .hunt → byte = 165 →
        exec (.lineByteReceived byte) s = .next (s.setLink { s.link with rx := .length [] })) ∧
      (s.link.rx = .length [] →
        exec (.lineByteReceived byte) s = .next (s.setLink { s.link with rx := .length [byte] })) ∧
      (∀ hi, s.link.rx = .length [hi] → 4 ≤ hi.toNat * 256 + byte.toNat → hi.toNat * 256 + byte.toNat ≤ 1021 →
        exec (.lineByteReceived byte) s =
          .next (s.setLink { s.link with rx := .frame (hi.toNat * 256 + byte.toNat) [] })) ∧
      (∀ hi, s.link.rx = .length [hi] → hi.toNat * 256 + byte.toNat < 4 ∨ 1021 < hi.toNat * 256 + byte.toNat →
        exec (.lineByteReceived byte) s =
          .next (s.setLink (({ s.link with rx := .hunt, errs := { s.link.errs with length := bump s.link.errs.length } }).offerNotice
            (.linkError (.length (hi.toNat * 256 + byte.toNat)))))) ∧
      (∀ n taken, s.link.rx = .frame n taken → taken.length + 1 < n →
        exec (.lineByteReceived byte) s = .next (s.setLink { s.link with rx := .frame n (taken ++ [byte]) })) ∧
      (∀ n kind tag body check, s.link.rx = .frame n (kind :: tag :: body ++ [check]) → body.length + 4 = n →
        (be16 (crc16 (be16 n ++ kind :: tag :: body)).toNat ≠ [check, byte] →
          exec (.lineByteReceived byte) s =
            .next (s.setLink (({ s.link with rx := .hunt, errs := { s.link.errs with crc := bump s.link.errs.crc } }).offerNotice
              (.linkError (.crc kind tag))))) ∧
        (be16 (crc16 (be16 n ++ kind :: tag :: body)).toNat = [check, byte] → 4 ≤ s.link.inBuf.length →
          exec (.lineByteReceived byte) s =
            .next (s.setLink
              (({ s.link with rx := .hunt, errs := { s.link.errs with overrun := bump s.link.errs.overrun } }).offerNotice
                (.linkError (.overrun kind tag))))) ∧
        (be16 (crc16 (be16 n ++ kind :: tag :: body)).toNat = [check, byte] → s.link.inBuf.length < 4 →
          exec (.lineByteReceived byte) s =
            .next (s.setLink { s.link with rx := .hunt, inBuf := s.link.inBuf ++ [{ kind := kind, tag := tag, body := body }] }))))

/-- A break drops a partial frame, raises the BREAK count, places LINK ERROR saying whether a frame was dropped, and leaves the
receiver hunting, so that the first byte after it is judged in HUNT (R172). While a RESET FULL waits it is discarded, with no notice
and no count (R182). -/
def Obligations.ABreakDropsThePartialFrame : Prop :=
  ∀ s : State, (s.link.resetPending = true → exec .lineBreak s = .next s) ∧ (s.link.resetPending = false →
    exec .lineBreak s =
      .next (s.setLink (({ s.link with rx := .hunt, errs := { s.link.errs with brk := bump s.link.errs.brk } }).offerNotice
        (.linkError (.brk (decide (s.link.rx ≠ Receiver.hunt)))))) ∧
    ((decide (s.link.rx ≠ Receiver.hunt)) = true ↔ (∃ l, s.link.rx = .length l) ∨ ∃ n l, s.link.rx = .frame n l) ∧
    ∀ (byte : Byte) (t : State), exec .lineBreak s = .next t →
      exec (.lineByteReceived byte) t = .next (if byte = 165 then t.setLink { t.link with rx := .length [] } else t))

/-- The bytes of any request frame of R184, received one by one by a hunting receiver with room, put exactly that frame at the
tail of the input buffer: length, CRC and every byte of the body are read as they were written. -/
def Obligations.AFrameReceivedByteByByteIsBuffered : Prop :=
  ∀ (kind tag : Byte) (body : List Byte) (s : State),
    body.length ≤ 1017 → s.link.rx = .hunt → s.link.resetPending = false → s.link.inBuf.length < 4 →
    execAll ((frameBytes 165 (kind :: tag :: body)).map .lineByteReceived) s =
      some (s.setLink { s.link with inBuf := s.link.inBuf ++ [{ kind := kind, tag := tag, body := body }] })

/-- A notice is placed with the pending lost flag while fewer than 28 entries are occupied, and the flag is then no longer
pending; otherwise it is dropped, counted up to 65,535, and the flag is pending; a message placed keeps its place and nothing
else of the line link changes (R175, R176). -/
def Obligations.ANoticeIsPlacedOrCounted : Prop :=
  ∀ (n : Notice) (l : Link),
    (l.placed.length + l.setAside < 28 →
      l.offerNotice n = { l with placed := l.placed ++ [.notice l.lostPending n], lostPending := false }) ∧
    (28 ≤ l.placed.length + l.setAside → l.offerNotice n = { l with lost := min (l.lost + 1) 65535, lostPending := true })

/-! ## Requests to a bay (chapters 1 and 3) -/

/-- PARK is accepted in EMPTY alone and UNPARK in PARKED alone; each is replied OK, moves the bay and its poller, and stops or
restarts the probe's warm-up; in any other state and for any other bay number it is refused and changes nothing (R7, R40, R77).
That the first poll after UNPARK is due at once is the model's reading, log entry 26. -/
def Obligations.ParkAndUnparkFollowTheirRule : Prop :=
  ∀ (tag : Nat) (s : State), s.entryFree → 1 ≤ tag →
    (∀ bay, 4 ≤ bay →
      exec (.bayPark tag bay) s = .next (s.withReply 12 tag .badField []) ∧
      exec (.bayUnpark tag bay) s = .next (s.withReply 13 tag .badField [])) ∧
    ∀ b : Bay,
      ((s.bay b).state = .empty → exec (.bayPark tag b.val) s =
        .next ((((s.setBay b { s.bay b with state := .parked }).setPoller b
            { s.poller b with next := none, emptyTime := (s.poller b).emptyTime.pause s.now }).setProbe b
            { s.probe b with warm := .stopped }).withReply 12 tag .ok [])) ∧
      ((s.bay b).state ≠ .empty → exec (.bayPark tag b.val) s = .next (s.withReply 12 tag .badState [])) ∧
      ((s.bay b).state = .parked → exec (.bayUnpark tag b.val) s =
        .next ((((s.setBay b { s.bay b with state := .empty }).setPoller b
            { level := .watch, emptyTime := .running 0 s.now, next := some s.now, helloOut := false,
              helloAnswered := false }).setProbe b
            { s.probe b with warm := .warming (s.now + ms 5000) }).withReply 13 tag .ok [])) ∧
      ((s.bay b).state ≠ .parked → exec (.bayUnpark tag b.val) s = .next (s.withReply 13 tag .badState []))

/-- BAY QUERY is accepted in every bay state: it replies the bay's record and sets the four query counters to 0 (R29; forms of
log entries 17 and 19). -/
def Obligations.BayQueryReportsAndClearsTheCounters : Prop :=
  ∀ (tag : Nat) (b : Bay) (s : State), s.entryFree → 1 ≤ tag →
    exec (.bayQuery tag b.val) s =
      .next ((s.setBay b { s.bay b with discarded := 0, adjustments := 0, overtimes := 0, requests := 0 }).withReply 14 tag .ok
        (b1 (s.bay b).state.code ++ bCode ((s.bay b).origin.map BayState.code) ++
          listBytes (fun c : FaultCause => b1 c.code) (s.bay b).faults ++ bFlag (s.bay b).overflow ++
          bFlag (s.port b).linkAlive ++ b1 (s.poller b).level.code ++ identityBody (s.bay b).identity ++
          jobBody (s.bay b).job ++ b1 (s.area b).frameCode ++ be16 (s.bay b).discarded ++ be16 (s.bay b).adjustments ++
          be16 (s.bay b).overtimes ++ be16 (s.bay b).requests))

/-- TUNNEL ENTER is accepted in READY and opens a record with both counts 0; TUNNEL EXIT is accepted in TUNNEL with no pass
pending, replies the two counts and discards the record; otherwise each is refused and changes nothing (R57, R60). -/
def Obligations.TunnelIsEnteredAndLeft : Prop :=
  ∀ (tag : Nat) (b : Bay) (s : State), s.entryFree → 1 ≤ tag →
    ((s.bay b).state = .ready → exec (.tunnelEnter tag b.val) s =
      .next (((s.setPort b { s.port b with tunnel := some { trap := 0, fwd := 0, pass := .none } }).setBay b
        { s.bay b with state := .tunnel }).withReply 16 tag .ok [])) ∧
    ((s.bay b).state ≠ .ready → exec (.tunnelEnter tag b.val) s = .next (s.withReply 16 tag .badState [])) ∧
    (∀ t, (s.bay b).state = .tunnel → (s.port b).tunnel = some t → t.pass = .none → exec (.tunnelExit tag b.val) s =
      .next (((s.setPort b { s.port b with tunnel := none }).setBay b { s.bay b with state := .ready }).withReply 18 tag .ok
        (be16 t.trap ++ be16 t.fwd))) ∧
    (∀ t, (s.bay b).state = .tunnel → (s.port b).tunnel = some t → t.pass ≠ .none →
      exec (.tunnelExit tag b.val) s = .next (s.withReply 18 tag .busy [])) ∧
    ((s.bay b).state ≠ .tunnel → exec (.tunnelExit tag b.val) s = .next (s.withReply 18 tag .badState []))

/-- Which carried requests the tunnel traps: KEEP, HOLD, WAKE, SET REGION, STORE KEY, KEY END, OPEN SECTION, BURST, CLOSE
SECTION, APPLY MAP, FINISH, and a SHOW that is not a channel and a level code below the loaded class's threshold (R58). TUNNEL
PASS: the checks of R58 in order; a trapped request is counted and replied TRAPPED; any other is placed on the set port with no
reply yet, its entry staying set aside, and a free port with nothing before it sends it at once (R58, R59). -/
def Obligations.TunnelPassTrapsOrForwards : Prop :=
  (∀ (c : Option ClassFields) (kind : Byte) (body : List Byte),
    isTrapped c kind body = true ↔
      kind.toNat ∈ [3, 4, 5, 8, 9, 10, 11, 12, 13, 14, 15] ∨
      kind.toNat = 6 ∧ ¬ ∃ cls ch hi lo, c = some cls ∧ body = [ch, hi, lo] ∧ ch.toNat ≤ 3 ∧
        hi.toNat * 256 + lo.toNat ≤ 1023 ∧ hi.toNat * 256 + lo.toNat < cls.threshold) ∧
  ∀ (tag : Nat) (b : Bay) (carried : List Byte) (s : State), s.entryFree → 1 ≤ tag →
    ((s.bay b).state ≠ .tunnel → exec (.tunnelPass tag b.val carried) s = .next (s.withReply 17 tag .badState [])) ∧
    ∀ t, (s.bay b).state = .tunnel → (s.port b).tunnel = some t →
      (t.pass ≠ .none → exec (.tunnelPass tag b.val carried) s = .next (s.withReply 17 tag .busy [])) ∧
      (t.pass = .none →
        (carried = [] ∨ 512 < carried.length →
          exec (.tunnelPass tag b.val carried) s = .next (s.withReply 17 tag .badField [])) ∧
        ∀ kind body, carried = kind :: body → carried.length ≤ 512 →
          (isTrapped (s.bayClass b) kind body = true → exec (.tunnelPass tag b.val carried) s =
            .next ((s.setPort b { s.port b with tunnel := some { t with trap := min (t.trap + 1) 65535 } }).withReply 17 tag
              .trapped [])) ∧
          (isTrapped (s.bayClass b) kind body = false →
            ∃ u, exec (.tunnelPass tag b.val carried) s = .next u ∧
              u.link = { s.link with setAside := s.link.setAside + 1 } ∧ (u.bay b).state = .tunnel ∧
              (∃ t', (u.port b).tunnel = some t' ∧ t'.trap = t.trap ∧ (t'.pass = .queued tag ∨ t'.pass = .sent tag)) ∧
              ((s.port b).free →
                (u.port b).tunnel = some { trap := t.trap, fwd := min (t.fwd + 1) 65535, pass := .sent tag } ∧
                SentNow b { what := .forwarded kind, owner := .work, body := body } s u ∧
                (u.bay b).requests = min ((s.bay b).requests + 1) 65535)))

/-- RELEASE of a STOPPED bay is accepted when its verdict is not PASS and link-alive is true; in the states that are neither
FAULTED nor STOPPED it is refused. In FAULTED it is BUSY while a pass is out at the set; otherwise accepted, an open job closing
ABORTED with the reply before its JOB DONE, whose detail is the first cause; the bay enters READY with link-alive and identity
present, else ATTACHING with a fresh attach timer; faults, from-state, job and tunnel record are gone (R24, R61). The slots of an
open job lose its references (R159), and with link-alive the port is placed what it owes its set: CLOSE SECTION, WAKE, DARK (R129).
That the showing flag is kept into ATTACHING is the model's choice, log entry 33. -/
def Obligations.ReleaseOfAStoppedOrFaultedBay : Prop :=
  ∀ (tag : Nat) (b : Bay) (s : State), s.entryFree → 1 ≤ tag →
    let passed := ∃ j, (s.bay b).job = some j ∧ j.verdict = some .pass
    ((s.bay b).state = .stopped → ¬ passed → (s.port b).linkAlive = true → exec (.bayRelease tag b.val) s =
      .next ((s.setBay b { s.bay b with state := .ready, origin := none, faults := [], overflow := false, firstKeep := false,
                                        job := none }).withReply 11 tag .ok [])) ∧
    ((s.bay b).state = .stopped → passed ∨ (s.port b).linkAlive = false →
      exec (.bayRelease tag b.val) s = .next (s.withReply 11 tag .badState [])) ∧
    ((s.bay b).state ≠ .stopped → (s.bay b).state ≠ .faulted →
      exec (.bayRelease tag b.val) s = .next (s.withReply 11 tag .badState [])) ∧
    ((s.bay b).state = .faulted →
      ((∃ t n, (s.port b).tunnel = some t ∧ t.pass = .sent n) →
        exec (.bayRelease tag b.val) s = .next (s.withReply 11 tag .busy [])) ∧
      (¬ (∃ t n, (s.port b).tunnel = some t ∧ t.pass = .sent n) →
        ∃ t, exec (.bayRelease tag b.val) s = .next t ∧ Replied 11 tag .ok [] s t ∧
          (∀ j, (s.bay b).job = some j → j.verdict = none → s.link.occupied + 1 < 28 →
            s.link.placed ++ [.reply 11 tag .ok [],
              .notice s.link.lostPending (.jobDone b .aborted (s.bay b).serial j.stage j.pass (firstCause (s.bay b).faults))]
              <+: t.link.placed) ∧
          (t.bay b).faults = [] ∧ (t.bay b).origin = none ∧ (t.bay b).overflow = false ∧ (t.bay b).job = none ∧
          (t.port b).tunnel = none ∧
          ((∀ r ∈ (s.port b).queue, r.what ≠ .show) → (t.bay b).showing = (s.bay b).showing) ∧
          (∀ j, (s.bay b).job = some j → j.verdict = none → RefsDropped b j s t) ∧
          ((s.bay b).jobOpen = false → t.table = s.table) ∧
          ((s.port b).linkAlive = true → PlacedInTurn b (s.port b) ((s.port b).owed (s.bay b).showing) s t) ∧
          ((s.port b).linkAlive = false → t.port b = { s.port b with tunnel := none }) ∧
          ((s.port b).linkAlive = true → (s.bay b).identity.isSome = true →
            (t.bay b).state = .ready ∧ (t.bay b).identity = (s.bay b).identity) ∧
          ((s.port b).linkAlive = false ∨ (s.bay b).identity = none →
            (t.bay b).state = .attaching ∧ (t.bay b).identity = none ∧ (t.bay b).attachTimer = some (s.now + ms 30000) ∧
            (t.poller b).level = .watch ∧ (t.poller b).helloAnswered = false)))

/-! ## Jobs (R6, R23, R27) -/

/-- JOB START: the checks of R6 in order; an accepted one opens a job in REGION with its counts at 0 and its slots referenced,
empties the map area, replies OK and places STAGE; then the REGION checks send SET REGION or reject the job (R6, R11, R165). -/
def Obligations.JobStartFollowsItsChecks : Prop :=
  ∀ (tag slot : Nat) (args : JobArgs) (b : Bay) (s : State), s.entryFree → 1 ≤ tag →
    (16 ≤ slot → exec (.jobStart tag b.val slot args) s = .next (s.withReply 8 tag .badField [])) ∧
    (slot < 16 → (s.bay b).state ≠ .ready →
      exec (.jobStart tag b.val slot args) s = .next (s.withReply 8 tag .badState [])) ∧
    (slot < 16 → (s.bay b).state = .ready → s.table.profile slot = none →
      exec (.jobStart tag b.val slot args) s = .next (s.withReply 8 tag .unknownProfile [])) ∧
    ∀ prof, (s.bay b).state = .ready → s.table.profile slot = some prof →
      ((fillArgs args).inRange (maskZones (s.bayClass b)) = false →
        exec (.jobStart tag b.val slot args) s = .next (s.withReply 8 tag .badField [])) ∧
      ∀ i, (fillArgs args).inRange (maskZones (s.bayClass b)) = true → (s.bay b).identity = some i →
        let job : Job := { slot := slot, params := fillArgs args, stage := .region, cursor := 0, overtime := 0, pass := 0,
                           keyCursor := 0, attempts := 0, keyId := none, verdict := none, solveKind := .first }
        let said := s.link.placed ++ [.reply 8 tag .ok [], .notice s.link.lostPending (.stage b .region 0)]
        ∃ t, exec (.jobStart tag b.val slot args) s = .next t ∧ Replied 8 tag .ok [] s t ∧
          (t.bay b).identity = some i ∧ t.area b = { rows := Vector.replicate 15 none, frame := none } ∧
          (∀ c, s.bayClass b = some c → pairAllowed c.pairs prof.frameRate prof.drive = true → prof.region ∈ i.caps →
            (t.bay b).state = .running ∧ (t.bay b).job = some job ∧
            t.table = (s.table.refProfile slot (· + 1)).refClass i.classId (· + 1) ∧
            (s.link.occupied + 1 < 28 → t.link.placed = said) ∧ ((s.port b).free → SentNow b (regionReq prof) s t)) ∧
          (∀ n, (n = 1 ∧ s.bayClass b = none) ∨
              (∃ c, s.bayClass b = some c ∧
                ((n = 2 ∧ pairAllowed c.pairs prof.frameRate prof.drive = false) ∨
                 (n = 3 ∧ pairAllowed c.pairs prof.frameRate prof.drive = true ∧ prof.region ∉ i.caps))) →
            (t.bay b).state = .stopped ∧ (t.bay b).job = some { job with verdict := some .rejectRegion } ∧
            t.table = s.table ∧ t.ports = s.ports ∧
            (s.link.occupied + 2 < 28 → t.link.placed =
              said ++ [.notice false (.jobDone b .rejectRegion i.serial .region 0 n)]))

/-- JOB ABORT is accepted in RUNNING alone: the reply goes first, then the KEY VOIDED of a SENDING key, then JOB DONE with verdict
ABORTED and detail 0; cleanup withdraws the bay's claims, closes its section PARTIAL, returns the row of a withdrawn entry whose
capture has completed and no other, and leaves its port CLOSE SECTION, WAKE and DARK as they apply; the job closes with its slots no
longer referenced, the bay is STOPPED, the sequencer IDLE with its cursors and counts kept (R25 to R27, R96, R103, R131, R154,
R159). That the reply goes before every notice, one that cleanup makes at another bay included, is the model's reading, log entry
29; that the section is recorded PARTIAL at once, but not behind an outstanding OPEN SECTION, is log entry 8, that only a completed
capture's row returns log entry 39, when the timeout of the request starts that an engine freed sends is log entry 6 (R95). The key
transfer is HALTED while a chunk or KEY END is outstanding, else IDLE (R153, R154). -/
def Obligations.JobAbortClosesTheJob : Prop :=
  ∀ (tag : Nat) (b : Bay) (s : State), s.entryFree → 1 ≤ tag →
    ((s.bay b).state ≠ .running → exec (.jobAbort tag b.val) s = .next (s.withReply 9 tag .badState [])) ∧
    (∀ j, (s.bay b).state = .running → (s.bay b).job = some j →
      ∃ t, exec (.jobAbort tag b.val) s = .next t ∧ Replied 9 tag .ok [] s t ∧
        JobEnded b { j with keyId := none } .aborted s t ∧ (t.bay b).identity = (s.bay b).identity ∧
        CleanedUp b (s.port b).openSection (s.port b) s t ∧ RowReturned b s t ∧ t.seq b = { s.seq b with phase := .idle } ∧
        (s.stock.waiting = [] → s.link.occupied + 2 < 28 →
          t.link.placed = s.link.placed ++ .reply 9 tag .ok [] ::
            match s.stock.records.find? (fun r => decide (r.state = .sending b)) with
            | none => [.notice s.link.lostPending (.jobDone b .aborted (s.bay b).serial j.stage j.pass 0)]
            | some r =>
              [.notice s.link.lostPending (.keyVoided r.keyId r.cls r.batch b (some (s.bay b).serial) .cleanup),
               .notice false (.jobDone b .aborted (s.bay b).serial j.stage j.pass 0)]))

/-- BAY RESUME is accepted in FAULTED when every cause is resumable and the overflow flag clear: the fault list empties and the
bay is back in its from-state; into ATTACHING the attach timer restarts and IDENTIFY is sent again without a HELLO (R23, R36). With
link-alive the port is placed what it owes its set (CLOSE SECTION, WAKE, DARK: R129), then the restart point's request: in REGION
SET REGION, in MEASURE and VERIFY the patch at the cursor with its overtime count 0, by SHOW or by asking for an admission whose
grant at once is followed by SHOW, where no DARK of a revocation is still out, in SOLVE the same kind of solve, in TRANSFER the
section at the cursor or APPLY MAP once the record is none, in KEYS a new reservation with chunk 0, a HOLD where none fits or
nothing more while the set is in hold, or FINISH, in FINISH FINISH (R23, R71, R130, R143 to R149). A KEEP whose refusal came first
is due again, ahead of them all where no section is open (log entry 10). The restart of a transfer is stated where no OPEN SECTION
is queued, that of KEYS where the queue is that of a FAULTED bay: so it is in FAULTED (EveryStepKeepsWhatWaitsAtThePorts). That a
DARK owed or left over releases no admission granted meanwhile is the model's inference, log entry 11. -/
def Obligations.ResumeReturnsToTheFromState : Prop :=
  ∀ (tag : Nat) (b : Bay) (s : State), s.entryFree → 1 ≤ tag →
    ((s.bay b).state ≠ .faulted ∨ (s.bay b).overflow = true ∨
        (∃ c ∈ (s.bay b).faults, c = .setSilent ∨ c = .serviceLapsed ∨ c = .attachTimeout) →
      exec (.bayResume tag b.val) s = .next (s.withReply 10 tag .badState [])) ∧
    (∀ o, (s.bay b).state = .faulted → (s.bay b).overflow = false → (s.bay b).origin = some o →
      (∀ c ∈ (s.bay b).faults, c = .setRefused ∨ c = .probeSilent ∨ c = .probeDrift ∨ c = .captureExposure ∨
        c = .captureQuality ∨ c = .driveOvertime) →
      ∃ t, exec (.bayResume tag b.val) s = .next t ∧ Replied 10 tag .ok [] s t ∧ (t.bay b).state = o ∧
        (t.bay b).origin = none ∧ (t.bay b).faults = [] ∧ (t.bay b).identity = (s.bay b).identity ∧
        (∀ j, o = .running → (s.bay b).job = some j → s.link.occupied + 1 < 28 →
          s.link.placed ++ [.reply 10 tag .ok [], .notice s.link.lostPending (.stage b j.stage j.pass)] <+: t.link.placed) ∧
        ((s.port b).linkAlive = true →
          let p := { s.port b with keepDue := (s.port b).keepDue || (s.bay b).firstKeep }
          let owed := p.owed (s.bay b).showing
          let placed (l : List PortReq) := PlacedInTurn b p (owed ++ l) s t
          let noOpen := ∀ r ∈ (s.port b).queue, ∀ id, r.what ≠ .openSection id
          ((s.bay b).firstKeep = true → p.outstanding = none → p.hold = .none → p.openSection = none → p.queue = [] →
            SentNow b (bareReq .keep .work) s t) ∧
          (o = .ready ∨ o = .stopped ∨ o = .tunnel → placed []) ∧
          (o = .attaching → (t.bay b).attachTimer = some (s.now + ms 30000) ∧ (t.poller b).helloAnswered = true ∧
            (t.poller b).helloOut = false ∧ placed [bareReq .identify .work]) ∧
          (∀ j, o = .running → (s.bay b).job = some j →
            (j.stage = .region → ∀ prof, s.bayProfile b = some prof →
              (t.bay b).job = some j ∧ placed [regionReq prof]) ∧
            (j.stage = .measure ∨ j.stage = .verify → ∀ c, s.bayClass b = some c →
              let j' := { j with overtime := 0 }
              (t.bay b).job = some j' ∧
              let shown := showReq (patchAt j').channel (patchAt j').level
              let first := earliestGrant s.gov s.link.params b s.now
              (highDrive c.threshold (patchAt j') = false → placed [shown]) ∧
              (highDrive c.threshold (patchAt j') = true → b ∉ s.gov.claimants → AdmissionAsked b s.gov s t ∧
                (s.gov.queue ≠ [] ∨ s.now < first → placed []) ∧
                (s.gov.queue = [] → first ≤ s.now →
                  ((s.port b).has restartDark = false → placed [shown]) ∧
                  ((s.port b).has restartDark = true → placed [] ∧ (t.bay b).showPending = true)))) ∧
            (j.stage = .solve → (t.bay b).job = some j ∧ t.solve b = some j.solveKind ∧ placed []) ∧
            (j.stage = .transfer →
              (t.bay b).job = some j ∧
              (noOpen → (s.port b).openSection.isSome = true →
                t.seq b = { s.seq b with phase := .closing } ∧ placed []) ∧
              (noOpen → (s.port b).openSection = none → ∀ f, (s.area b).frame = some f →
                ((s.seq b).sec < f.sections.length → (t.seq b).phase = .opening ∧ (t.seq b).sec = (s.seq b).sec ∧
                  (t.seq b).burst = 0 ∧ (t.seq b).rewrites = (s.seq b).rewrites ∧ placed [openReq (s.seq b).sec]) ∧
                (f.sections.length ≤ (s.seq b).sec →
                  t.seq b = { s.seq b with phase := .applying } ∧ placed [bareReq .applyMap .work]))) ∧
            (j.stage = .keys → j.keyId = none → b ∉ s.stock.claimants → StockOk s.stock →
              FaultedQueueOk (s.bay b) (s.port b) →
              KeyAsked b j s.stock (p.ahead owed) []
                (s.setLink ((s.withReply 10 tag .ok []).link.offerNotice (.stage b j.stage j.pass))) t ∧
              ∀ prof, s.bayProfile b = some prof →
                (prof.keyClasses.drop j.keyCursor = [] → placed [bareReq .finish .work]) ∧
                ∀ c rest, prof.keyClasses.drop j.keyCursor = c :: rest →
                  let suits (r : KeyRec) := decide (r.state = .available) && fits c prof.region r
                  (s.stock.records.find? suits = none → placed [bareReq .hold .work]) ∧
                  ∀ r, s.stock.records.find? suits = some r →
                    let blob := r.blob.getD []
                    (p.hold = .none → crc32 blob = r.check →
                      placed [chunkReq r.cls 0 ((r.blobLen + 255) / 256) blob]) ∧
                    (p.hold = .none → crc32 blob ≠ r.check → (∀ x ∈ s.stock.records, x ≠ r → suits x = false) →
                      placed [bareReq .hold .work]) ∧
                    (p.hold ≠ .none → placed [])) ∧
            (j.stage = .finish → (t.bay b).job = some j ∧ placed [bareReq .finish .work]))))

/-! ## Station and stores -/

/-- RESET BAYS gives every bay, port, transfer and area its reset value, a PARKED bay staying PARKED; the governor keeps its
history and last grants; the engine is IDLE and its probes keep their records; RESERVED keys return and SENDING keys are voided;
the line link keeps everything but the replies placed (R3, R30, R42, R74, R98, R117, R120, R148, R156, R181; log entry 14, and for
what reset leaves in the model's own fields log entries 22 and 40). -/
def Obligations.ResetBaysKeepsLineGrantsAndProbes : Prop :=
  ∀ (tag : Nat) (s : State), s.entryFree → 1 ≤ tag →
    ∃ t, exec (.resetBays tag) s = .next t ∧
      (s.passReplies.length ≤ s.link.setAside →
        t.link = { s.link with placed := s.link.placed ++ s.passReplies ++ [.reply 4 tag .ok []],
                               setAside := s.link.setAside - s.passReplies.length }) ∧
      SameLine s.link t.link ∧ t.now = s.now ∧
      (∀ b, t.bay b = { BayRec.reset with state := if (s.bay b).state = .parked then .parked else .empty } ∧
        t.port b = Port.reset ∧ t.seq b = Sequencer.reset ∧ t.xfer b = Xfer.reset ∧ t.area b = Area.reset ∧
        t.solve b = none ∧
        ((s.bay b).state = .parked → t.poller b = s.poller b) ∧
        ((s.bay b).state ≠ .parked → t.poller b =
          { level := .watch, emptyTime := .running 0 s.now, next := some s.now, helloOut := false, helloAnswered := false }) ∧
        (t.probe b).warm = (s.probe b).warm ∧ (t.probe b).step = (s.probe b).step ∧
        (t.probe b).seeded = (s.probe b).seeded ∧ (t.probe b).factor = (s.probe b).factor ∧
        (t.probe b).count = (s.probe b).count ∧ (t.probe b).fault = (s.probe b).fault ∧
        (t.probe b).seqNo = (s.probe b).seqNo) ∧
      t.gov = { s.gov with queue := [], headTimer := none, held := [] } ∧
      t.engine.queue = [] ∧ t.engine.current = none ∧ t.engine.lastNumber = 0 ∧
      t.stock.waiting = [] ∧ t.stock.nextSeq = s.stock.nextSeq ∧
      t.stock.records = s.stock.records.map (fun r => match r.state with
        | .reserved _ => { r with state := .available }
        | .sending b => { r with state := .voided (some (s.bay b).serial) .cleanup, blob := none }
        | .available => r
        | .bound _ => r
        | .voided _ _ => r) ∧
      SameSlots s.table t.table

/-- SHEET READ and MAP READ: the checks of R115 and R116 in order, then the run of readings or cells from the start zone, ending
at the row's last zone; no state changes (R115, R116, R117; forms of R190 and log entry 17). -/
def Obligations.TheMapStoreIsReadInRuns : Prop :=
  ∀ (tag row start count : Nat) (b : Bay) (s : State), s.entryFree → 1 ≤ tag →
    ((15 ≤ row ∨ count = 0 ∨ 240 < count →
      exec (.sheetRead tag b.val row start count) s = .next (s.withReply 20 tag .badField [])) ∧
     (row < 15 → 1 ≤ count → count ≤ 240 →
      ((s.area b).row row = none → exec (.sheetRead tag b.val row start count) s = .next (s.withReply 20 tag .notFound [])) ∧
      ∀ r, (s.area b).row row = some r →
        (r.cols * r.rows ≤ start →
          exec (.sheetRead tag b.val row start count) s = .next (s.withReply 20 tag .badField [])) ∧
        (start < r.cols * r.rows →
          let run := (r.readings.drop start).take count
          exec (.sheetRead tag b.val row start count) s = .next (s.withReply 20 tag .ok
            (b1 b.val ++ b1 row ++ b1 r.cols ++ b1 r.rows ++ be16 start ++ be16 run.length ++
              be16 (r.readings.countP (fun x => x.flag = .valid)) ++ be16 (r.readings.countP (fun x => x.flag = .saturated)) ++
              be16 (r.readings.countP (fun x => x.flag = .dark)) ++ be16 (r.readings.countP (fun x => x.flag = .masked)) ++
              be16 (r.uniformity.getD 65535) ++ run.flatMap (fun x => be16 x.lum ++ b1 x.flag.code)))))) ∧
    ((12 ≤ row ∨ count = 0 ∨ 240 < count →
      exec (.mapRead tag b.val row start count) s = .next (s.withReply 21 tag .badField [])) ∧
     (row < 12 → 1 ≤ count → count ≤ 240 →
      ((s.area b).frame = none → exec (.mapRead tag b.val row start count) s = .next (s.withReply 21 tag .notFound [])) ∧
      ∀ f, (s.area b).frame = some f →
        (f.sections.length ≤ row →
          exec (.mapRead tag b.val row start count) s = .next (s.withReply 21 tag .notFound [])) ∧
        ∀ c, f.sections[row]? = some c →
          (f.cols * f.rows ≤ start →
            exec (.mapRead tag b.val row start count) s = .next (s.withReply 21 tag .badField [])) ∧
          (start < f.cols * f.rows →
            let run := (c.cells.drop start).take count
            exec (.mapRead tag b.val row start count) s = .next (s.withReply 21 tag .ok
              (b1 b.val ++ b1 row ++ b1 f.state.code ++ b1 c.summary.kind.code ++ be32 c.summary.target ++
                be16 c.summary.belowFloor ++ be16 c.summary.beyondRange ++ be16 (c.summary.predicted.getD 65535) ++
                b1 c.outcome.code ++ be16 (get12 (s.seq b).confirmed row) ++ be16 run.length ++
                run.flatMap (fun x => be16 ((if x.masked then 32768 else 0) + x.gain)))))))

/-- STOCK QUERY answers its three modes and changes nothing (R142; forms of log entries 17, 19, 38). That the ages of the waiting
list are whole milliseconds, rounded down, is the model's choice, log entry 18. -/
def Obligations.StockQueriesReportWithoutChange : Prop :=
  ∀ (tag start count keyId : Nat) (s : State), s.entryFree → 1 ≤ tag →
    exec (.stockQueryCounts tag) s = .next (s.withReply 27 tag .ok
      (((List.range 8).flatMap (fun c => (List.range 5).flatMap (fun st =>
          be16 (s.stock.records.countP (fun r => decide (r.cls = c + 1) && decide (r.state.code = st)))))) ++
        be16 s.stock.records.length ++ be32 (blobUsed s.stock.records) ++ be32 (262144 - blobUsed s.stock.records) ++
        seqBytes s.stock.nextSeq ++
        listBytes (fun w : KeyWait => b1 w.bay.val ++ b1 w.cls ++ tripleBytes w.region ++ timeBytes (some ((s.now - w.joined) / 2304)))
          s.stock.waiting)) ∧
    (count = 0 ∨ 24 < count → exec (.stockQueryRun tag start count) s = .next (s.withReply 27 tag .badField [])) ∧
    (1 ≤ count → count ≤ 24 →
      let rs := (s.stock.records.filter (fun r => decide (start ≤ r.loadSeq))).take count
      exec (.stockQueryRun tag start count) s = .next (s.withReply 27 tag .ok
        (listBytes recordInRun rs ++ seqBytes (match rs.getLast? with
          | none => start
          | some r => r.loadSeq + 1)))) ∧
    (keyId = 0 → exec (.stockQueryRecord tag keyId) s = .next (s.withReply 27 tag .badField [])) ∧
    (keyId ≠ 0 → (∀ r ∈ s.stock.records, r.keyId ≠ keyId) →
      exec (.stockQueryRecord tag keyId) s = .next (s.withReply 27 tag .notFound [])) ∧
    (keyId ≠ 0 → ∀ r, s.stock.find keyId = some r →
      exec (.stockQueryRecord tag keyId) s = .next (s.withReply 27 tag .ok (recordBody r)))

/-- KEY LOAD: the checks of R139 in order; an accepted record joins the tail of load order AVAILABLE with the next load
sequence, and is offered to the first waiting bay it fits (R139, R145). -/
def Obligations.KeyLoadFollowsItsChecks : Prop :=
  ∀ (tag : Nat) (k : KeyFields) (s : State), s.entryFree → 1 ≤ tag →
    let badField := k.keyId = 0 ∨ k.cls = 0 ∨ 8 < k.cls ∨ k.blobLen < 16 ∨ 960 < k.blobLen ∨ k.blob.length ≠ k.blobLen ∨
      4 < k.regions.length ∨ (∃ r ∈ k.regions, isRegion r = false) ∨ ¬ k.regions.Nodup
    let full := s.stock.records.length ≥ 2048 ∨ 262144 < blobUsed s.stock.records + k.blobLen
    let loaded : Stock := { s.stock with
      records := s.stock.records ++ [{ keyId := k.keyId, cls := k.cls, regions := k.regions, batch := k.batch,
                                       blobLen := k.blobLen, check := k.check, loadSeq := s.stock.nextSeq,
                                       state := .available, blob := some k.blob }],
      nextSeq := s.stock.nextSeq + 1 }
    let said := seqBytes s.stock.nextSeq
    (badField → exec (.keyLoad tag k) s = .next (s.withReply 24 tag .badField [])) ∧
    (¬ badField → crc32 k.blob ≠ k.check → exec (.keyLoad tag k) s = .next (s.withReply 24 tag .integrity [])) ∧
    (¬ badField → crc32 k.blob = k.check → (∃ r ∈ s.stock.records, r.keyId = k.keyId) →
      exec (.keyLoad tag k) s = .next (s.withReply 24 tag .duplicate [])) ∧
    (¬ badField → crc32 k.blob = k.check → (∀ r ∈ s.stock.records, r.keyId ≠ k.keyId) →
      (full → exec (.keyLoad tag k) s = .next (s.withReply 24 tag .stockFull [])) ∧
      (¬ full →
        ((∀ w ∈ s.stock.waiting, fits w.cls w.region (newRecord k s.stock.nextSeq) = false) →
          exec (.keyLoad tag k) s = .next ((s.setStock loaded).withReply 24 tag .ok said)) ∧
        (∀ w, s.stock.waiting.find? (fun w => fits w.cls w.region (newRecord k s.stock.nextSeq)) = some w →
          ∃ t, exec (.keyLoad tag k) s = .next t ∧ Replied 24 tag .ok said s t ∧
            t.stock.waiting = s.stock.waiting.filter (fun x => x.bay ≠ w.bay) ∧
            t.stock.nextSeq = s.stock.nextSeq + 1 ∧
            (∃ r, t.stock.find k.keyId = some r ∧ (r.state = .reserved w.bay ∨ r.state = .sending w.bay)) ∧
            (∀ j, (s.bay w.bay).state = .running → (s.bay w.bay).job = some j → j.stage = .keys → j.keyId = none →
              (t.bay w.bay).job = some { j with keyId := some k.keyId }))))

/-- KEY WITHDRAW removes the named AVAILABLE records, keeps every other record, and replies how many were removed, busy and
spent; key ID 0 is BAD_FIELD and one not in the stock NOT_FOUND (R140). KEY PURGE removes every named BOUND or VOIDED record,
keeps the rest in load order, and replies both counts (R141). That each count is two bytes is the model's choice, log entry 17. -/
def Obligations.WithdrawAndPurgeRemoveWhatTheyName : Prop :=
  ∀ (tag keyId batch : Nat) (s : State), s.entryFree → 1 ≤ tag →
    let spent (r : KeyRec) := decide (r.state.code = 3) || decide (r.state.code = 4)
    let withdrawn (named : KeyRec → Bool) := (s.setStock { s.stock with
        records := s.stock.records.filter (fun r => !(named r && decide (r.state = .available))) }).withReply 25 tag .ok
      (be16 (s.stock.records.countP (fun r => named r && decide (r.state.code = 0))) ++
        be16 (s.stock.records.countP (fun r => named r && (decide (r.state.code = 1) || decide (r.state.code = 2)))) ++
        be16 (s.stock.records.countP (fun r => named r && spent r)))
    let purged (named : KeyRec → Bool) :=
      (s.setStock { s.stock with records := s.stock.records.filter (fun r => !(named r && spent r)) }).withReply 26 tag .ok
        (be16 (s.stock.records.countP (fun r => named r && spent r)) ++
          be16 (s.stock.records.countP (fun r => named r && !spent r)))
    (keyId = 0 → exec (.keyWithdrawById tag keyId) s = .next (s.withReply 25 tag .badField [])) ∧
    (keyId ≠ 0 → (∀ r ∈ s.stock.records, r.keyId ≠ keyId) →
      exec (.keyWithdrawById tag keyId) s = .next (s.withReply 25 tag .notFound [])) ∧
    (keyId ≠ 0 → (∃ r ∈ s.stock.records, r.keyId = keyId) →
      exec (.keyWithdrawById tag keyId) s = .next (withdrawn (fun r => r.keyId == keyId))) ∧
    exec (.keyWithdrawByBatch tag batch) s = .next (withdrawn (fun r => r.batch == batch)) ∧
    exec (.keyPurgeAll tag) s = .next (purged (fun _ => true)) ∧
    exec (.keyPurgeBatch tag batch) s = .next (purged (fun r => r.batch == batch))

/-- The four requests to the profile table: the checks of each in order, then the slot written whole or emptied; a load replies
the slot and whether it was LOADED before, a flag of 1 for LOADED by the model's choice, log entry 17; reference counts stay (R160
to R163). That a class whose allowed-pairs word has one of bits 12 to 15 set is out of range too is the model's choice, log entry
20: R162 does not list it. -/
def Obligations.TheTableIsWrittenAndEmptied : Prop :=
  ∀ (tag slot id : Nat) (p : ProfileFields) (c : ClassFields) (s : State), s.entryFree → 1 ≤ tag →
    (16 ≤ slot ∨ profileInRange p = false →
      exec (.profileLoad tag slot p) s = .next (s.withReply 28 tag .badField [])) ∧
    (16 ≤ slot → exec (.profileDrop tag slot) s = .next (s.withReply 29 tag .badField [])) ∧
    (id = 0 ∨ 8 < id ∨ classInRange c = false → exec (.classLoad tag id c) s = .next (s.withReply 30 tag .badField [])) ∧
    (id = 0 ∨ 8 < id → exec (.classDrop tag id) s = .next (s.withReply 31 tag .badField [])) ∧
    (∀ i : Fin 16,
      let x := s.table.profiles.get i
      (profileInRange p = true → 0 < x.refs → exec (.profileLoad tag i.val p) s = .next (s.withReply 28 tag .inUse [])) ∧
      (profileInRange p = true → x.refs = 0 → exec (.profileLoad tag i.val p) s =
        .next ((s.setTable { s.table with profiles := s.table.profiles.set i.val { content := some p, refs := 0 } }).withReply 28
          tag .ok (b1 i.val ++ bFlag x.content.isSome))) ∧
      (x.content = none → exec (.profileDrop tag i.val) s = .next (s.withReply 29 tag .notFound [])) ∧
      (x.content.isSome = true → 0 < x.refs → exec (.profileDrop tag i.val) s = .next (s.withReply 29 tag .inUse [])) ∧
      (x.content.isSome = true → x.refs = 0 → exec (.profileDrop tag i.val) s =
        .next ((s.setTable { s.table with profiles := s.table.profiles.set i.val { content := none, refs := 0 } }).withReply 29
          tag .ok []))) ∧
    (∀ i : Fin 8,
      let x := s.table.classes.get i
      (classInRange c = true → 0 < x.refs → exec (.classLoad tag (i.val + 1) c) s = .next (s.withReply 30 tag .inUse [])) ∧
      (classInRange c = true → x.refs = 0 → exec (.classLoad tag (i.val + 1) c) s =
        .next ((s.setTable { s.table with classes := s.table.classes.set i.val { content := some c, refs := 0 } }).withReply 30
          tag .ok (b1 (i.val + 1) ++ bFlag x.content.isSome))) ∧
      (x.content = none → exec (.classDrop tag (i.val + 1)) s = .next (s.withReply 31 tag .notFound [])) ∧
      (x.content.isSome = true → 0 < x.refs → exec (.classDrop tag (i.val + 1)) s = .next (s.withReply 31 tag .inUse [])) ∧
      (x.content.isSome = true → x.refs = 0 → exec (.classDrop tag (i.val + 1)) s =
        .next ((s.setTable { s.table with classes := s.table.classes.set i.val { content := none, refs := 0 } }).withReply 31
          tag .ok [])))

/-! ## Polls (chapter 2) -/

/-- A poll of an EMPTY bay. Open: one downshift when the time empty at the level has reached the level's time, and the next
poll one period of the level then in force later. Closed: ATTACHING at WATCH with a 30 s attach timer, a first HELLO, the next
poll in 100 ms (R4, R31 to R36, R41). -/
def Obligations.APollOfAnEmptyBay : Prop :=
  ∀ (b : Bay) (due : Nat) (s : State), (s.poller b).next = some due → due ≤ s.now → (s.bay b).state = .empty →
    (∀ l l' time period period', (l, l', time, period, period') ∈
        [(PollLevel.watch, PollLevel.doze1, s.link.params.watchDown, 100, 500),
         (.doze1, .doze2, s.link.params.doze1Down, 500, 2000), (.doze2, .doze3, s.link.params.doze2Down, 2000, 10000)] →
      (s.poller b).level = l → ∀ base since, (s.poller b).emptyTime = .running base since →
      (ms (time * 1000) ≤ base + (s.now - since) → exec (.poll b false) s = .next (s.setPoller b
        { s.poller b with level := l', emptyTime := .running 0 s.now, next := some (s.now + ms period') })) ∧
      (base + (s.now - since) < ms (time * 1000) → exec (.poll b false) s = .next (s.setPoller b
        { s.poller b with next := some (s.now + ms period) }))) ∧
    ((s.poller b).level = .doze3 → exec (.poll b false) s = .next (s.setPoller b
      { s.poller b with next := some (s.now + ms 10000) })) ∧
    (∃ t, exec (.poll b true) s = .next t ∧ (t.bay b).state = .attaching ∧
      (t.bay b).attachTimer = some (s.now + ms 30000) ∧ (t.bay b).identity = (s.bay b).identity ∧
      t.poller b = { level := .watch, emptyTime := (s.poller b).emptyTime.pause s.now, next := some (s.now + ms 100),
                     helloOut := true, helloAnswered := false } ∧
      (s.port b = Port.reset → SentNow b (bareReq .hello .work) s t ∧
        (t.bay b).requests = min ((s.bay b).requests + 1) 65535))

/-- A poll of an occupied bay. Closed: the next poll in 100 ms and nothing else, but for a HELLO in ATTACHING when none is out
and none answered. Open in ATTACHING: EMPTY without notice. Open in any other: a removal, which clears the bay, its port, its
transfers and its area, gives up its key claims, lowers the references of an open job, replies a pending pass and ends with
REMOVED (R5, R28, R31, R35, R36, R38, R61, R154, R159); a key transfer that waited for a request left over from before a RELEASE
is ended with it in ATTACHING (R148). The model's choice: HELLO answered is no from the entry to EMPTY on (log entry 41), an opening
in ATTACHING keeps the area and the sequencer (log entry 42), a KEEP due there is due no longer once the port is reset (log entry
43), and reset values of its own fields (log entries 22 and 40). An engine freed by a removal chooses the next entry and sends its
probe a request (R95), whose timeout starts as log entry 6 says. -/
def Obligations.APollOfAnOccupiedBay : Prop :=
  ∀ (b : Bay) (due : Nat) (s : State), (s.poller b).next = some due → due ≤ s.now →
    let later := s.setPoller b { s.poller b with next := some (s.now + ms 100) }
    let fresh : Poller := { level := .watch, emptyTime := .running 0 s.now, next := some (s.now + ms 100), helloOut := false,
                            helloAnswered := false }
    let settled := (s.bay b).state = .ready ∨ (s.bay b).state = .running ∨ (s.bay b).state = .tunnel ∨
      (s.bay b).state = .faulted ∨ (s.bay b).state = .stopped
    (settled → exec (.poll b true) s = .next later) ∧
    ((s.bay b).state = .attaching →
      ((s.poller b).helloOut = true ∨ (s.poller b).helloAnswered = true → exec (.poll b true) s = .next later) ∧
      ((s.poller b).helloOut = false → (s.poller b).helloAnswered = false →
        ∃ t, exec (.poll b true) s = .next t ∧ SameCore (s.bay b) (t.bay b) ∧
          t.poller b = { s.poller b with next := some (s.now + ms 100), helloOut := true } ∧
          ((s.port b).linkAlive = false → (s.port b).outstanding = none → (s.port b).queue = [] →
            SentNow b (bareReq .hello .work) s t)) ∧
      let emptied := ((s.setPort b Port.reset).setBay b
        { BayRec.reset with discarded := (s.bay b).discarded, adjustments := (s.bay b).adjustments,
                            overtimes := (s.bay b).overtimes, requests := (s.bay b).requests }).setPoller b fresh
      exec (.poll b false) s = .next (if (s.xfer b).phase = .halted then emptied.setXfer b Xfer.reset else emptied)) ∧
    (settled → ∃ t, exec (.poll b false) s = .next t ∧
      t.bay b = { BayRec.reset with discarded := (s.bay b).discarded, adjustments := (s.bay b).adjustments,
                                    overtimes := (s.bay b).overtimes, requests := (s.bay b).requests } ∧
      t.poller b = fresh ∧ t.port b = Port.reset ∧ t.seq b = Sequencer.reset ∧ t.xfer b = Xfer.reset ∧
      t.area b = Area.reset ∧ t.solve b = none ∧ (∀ h ∈ t.gov.held, h.bay ≠ b) ∧ (∀ w ∈ t.gov.queue, w.bay ≠ b) ∧
      ((s.bay b).entry.isSome = true → (∀ e ∈ t.engine.queue, e.bay ≠ b) ∧ EngineFreed b s t) ∧
      (∀ w ∈ t.stock.waiting, w.bay ≠ b) ∧
      KeysGivenUp b s t ∧ (∀ j, (s.bay b).job = some j → j.verdict = none → RefsDropped b j s t) ∧
      ((s.bay b).jobOpen = false → t.table = s.table) ∧
      (s.link.resetPending = false →
        (∃ lost, t.link.placed.getLast? = some (.notice lost (.removed b (s.bay b).serial (s.bay b).jobOpen))) ∨
        (28 ≤ t.link.occupied ∧ t.link.lostPending = true)) ∧
      (∀ x tag, s.link.resetPending = false → 1 ≤ s.link.setAside → (s.port b).tunnel = some x →
        x.pass = .queued tag ∨ x.pass = .sent tag →
        s.link.placed ++ [.reply 17 tag .badState []] <+: t.link.placed))

/-! ## Timers that fault a bay -/

/-- The attach timer, a lapse of the service deadline, a set request or a probe request not answered in time: each faults its bay
with its cause and cleans it up; the silent ones take link-alive down, and an open section with it; a forwarded request timed out is
replied BAD_STATE before the FAULT notice; a HELLO in ATTACHING faults nothing (R5, R25, R26, R37, R38, R46, R50, R59, R92). That a
QUEUED pass too is replied first is the model's choice, log entry 44; that behind an outstanding OPEN SECTION no PARTIAL is recorded
is its reading, log entry 8. That HELLO outstanding then stays yes for a newer HELLO in the queue is the model's choice, log entry
13; that only the row of a completed capture returns with a withdrawn entry is its reading, log entry 39. An engine that a failure or
a cleanup frees chooses the next entry and sends its probe a request (R93, R95), whose timeout starts as log entry 6 says. -/
def Obligations.TimersThatFaultABay : Prop :=
  ∀ (b : Bay) (s : State),
    (∀ due, (s.bay b).attachTimer = some due → due ≤ s.now →
      ∃ t, exec (.attachTimerExpiry b) s = .next t ∧ FaultTaken b .attachTimeout 0 s t ∧
        FaultCleansUp b (s.port b).openSection (s.port b) s t ∧ (isOrigin (s.bay b).state → RowReturned b s t)) ∧
    (∀ base since, (s.port b).linkAlive = true → (s.port b).hold = .none ∨ (s.port b).hold = .entering →
      (s.port b).lapseClock = .running base since → ms s.link.params.serviceDeadline ≤ base + (s.now - since) →
      ∃ t, exec (.lapse b) s = .next t ∧ FaultTaken b .serviceLapsed 0 s t ∧ (t.port b).linkAlive = false ∧
        FaultCleansUp b (s.port b).openSection (s.port b).down s t ∧ (isOrigin (s.bay b).state → RowReturned b s t)) ∧
    (∀ o, (s.port b).outstanding = some o → o.deadline ≤ s.now →
      (o.req.what ≠ .hello ∨ (s.bay b).state ≠ .attaching →
        ∃ t, exec (.setRequestTimeout b) s = .next t ∧ FaultTaken b .setSilent 0 s t ∧ (t.port b).linkAlive = false ∧
          FaultCleansUp b (s.port b).openSection { (s.port b).down with outstanding := none } s t ∧
          (isOrigin (s.bay b).state → RowReturned b s t) ∧
          (∀ k x tag, o.req.what = .forwarded k → (s.port b).tunnel = some x → x.pass = .sent tag → isOrigin (s.bay b).state →
            s.link.resetPending = false → 1 ≤ s.link.setAside → s.link.occupied < 28 →
            s.link.placed ++ [.reply 17 tag .badState [],
              .notice s.link.lostPending (.fault b .setSilent (s.bay b).state (s.bay b).stage? 0)] <+: t.link.placed)) ∧
      (o.req.what = .hello → (s.bay b).state = .attaching →
        ∃ t, exec (.setRequestTimeout b) s = .next t ∧ SameCore (s.bay b) (t.bay b) ∧
          t.poller b = { s.poller b with helloOut := (s.port b).queue.any PortReq.isHello } ∧
          (t.port b).linkAlive = (s.port b).linkAlive ∧
          ((s.port b).linkAlive = false → (∀ r ∈ (s.port b).queue, r.what ≠ .hello) →
            t.port b = { s.port b with outstanding := none }))) ∧
    (∀ o c, (s.probe b).outstanding = some o → o.deadline ≤ s.now → s.engine.current = some c → c.entry.bay = b →
      (s.bay b).entry = some c.entry.number →
      ∃ t, exec (.probeRequestTimeout b) s = .next t ∧ FaultTaken b .probeSilent 0 s t ∧ (t.probe b).fault = true ∧
        (t.probe b).outstanding = none ∧ (∀ x ∈ t.engine.queue, x.bay ≠ b) ∧ EngineFreed b s t ∧
        FaultCleansUp b (s.port b).openSection (s.port b) s t ∧ (t.area b).rows = (s.area b).rows)

/-! ## Set answers -/

/-- A set frame is read back as its payload; a frame that is none, or comes with no request outstanding or another kind's, is
discarded. A KEEP answered OK restarts the keep-alive clock, a DARK at the head of the queue then being sent: it releases the bay's
admission, but for one placed by a revocation or a cleanup, which leaves an admission granted since (R58, R69, and the model's
inference, log entry 11). A KEEP refused faults; a HELLO answered OK brings link-alive up and
IDENTIFY out, refused it waits for the next poll; in FAULTED it brings link-alive up where the attach timer had expired, and moves
nothing refused; a KEEP that fell due behind a HELLO stays due and goes first (R49, R53); an IDENTIFY answered OK identifies the
set, refused or ill-formed it faults (R5, R37, R38, R44, R48, R51). What
becomes of a newer HELLO in the queue, and that in FAULTED no other HELLO brings link-alive up, is the model's choice, log entry
13; keepTaken is the model's own field, log entry 22; that a capability code of bytes that are no letters is well-formed is the
model's choice, log entry 46. An engine that a cleanup frees sends a probe a request, whose timeout starts as log entry 6 says. -/
def Obligations.AnswersOfTheServiceLink : Prop :=
  ∀ (b : Bay) (frame : List Byte) (s : State),
    (∀ payload : List Byte, 1 ≤ payload.length → payload.length ≤ 1010 →
      openFrame 90 1012 (frameBytes 90 payload) = some payload) ∧
    ((s.port b).outstanding = none → exec (.setAnswerReceived b frame) s = .next s) ∧
    (openFrame 90 1012 frame = none → exec (.setAnswerReceived b frame) s = .next s) ∧
    (∀ o kind answer, (s.port b).outstanding = some o → openFrame 90 1012 frame = some (kind :: answer) →
      (kind ≠ o.req.what.kind → exec (.setAnswerReceived b frame) s = .next s) ∧
      (kind = o.req.what.kind →
        (o.req.what = .keep → answer = [0] → (s.port b).freeNext → exec (.setAnswerReceived b frame) s = .next
          (s.setPort b { s.port b with outstanding := none, keepClock := .running 0 s.now, keepTaken := none })) ∧
        (o.req.what = .keep → answer = [0] → (s.port b).linkAlive = true → (s.port b).hold = .none → (s.port b).keepDue = false →
          ∀ r rest, (s.port b).queue = r :: rest → r.what = .dark →
          let earlier := r.owner = .restart ∨ r.owner = .cleanup
          ∃ t, exec (.setAnswerReceived b frame) s = .next t ∧ SentNow b r s t ∧ (t.port b).queue = rest ∧
            t.gov = if earlier then s.gov else { s.gov with held := s.gov.held.filter (fun h => decide (h.bay ≠ b)) }) ∧
        (∀ code rest, o.req.what = .keep → answer = code :: rest → code ≠ 0 →
          ∃ t, exec (.setAnswerReceived b frame) s = .next t ∧ FaultTaken b .setRefused code.toNat s t ∧
            (isOrigin (s.bay b).state → (t.bay b).firstKeep = true) ∧
            FaultCleansUp b (s.port b).openSection { s.port b with outstanding := none } s t ∧
            ((s.port b).linkAlive = true → (s.port b).hold = .none → (t.port b).keepClock = .running 0 s.now)) ∧
        (o.req.what = .hello → (s.bay b).state = .faulted →
          (answer = [0] →
            ∃ t, exec (.setAnswerReceived b frame) s = .next t ∧ SameCore (s.bay b) (t.bay b) ∧
              t.poller b = { s.poller b with helloOut := false, helloAnswered := true } ∧
              ((s.bay b).faults.head? = some .attachTimeout →
                (t.port b).linkAlive = true ∧ (t.port b).keepClock = .running 0 s.now ∧
                ((s.port b).keepDue = false → (s.port b).queue = [] → (t.port b).outstanding = none) ∧
                ((s.port b).keepDue = true → SentNow b (bareReq .keep .work) s t)) ∧
              ((s.bay b).faults.head? ≠ some .attachTimeout → (t.port b).linkAlive = (s.port b).linkAlive)) ∧
          (∀ code rest, answer = code :: rest → code ≠ 0 →
            ∃ t, exec (.setAnswerReceived b frame) s = .next t ∧ SameCore (s.bay b) (t.bay b) ∧
              (t.port b).linkAlive = (s.port b).linkAlive)) ∧
        (o.req.what = .hello → (s.bay b).state = .attaching →
          (answer = [0] → (s.poller b).helloAnswered = false → (s.port b).queue = [] →
            ∃ t, exec (.setAnswerReceived b frame) s = .next t ∧ SameCore (s.bay b) (t.bay b) ∧
              t.poller b = { s.poller b with helloOut := false, helloAnswered := true } ∧
              (t.port b).linkAlive = true ∧ (t.port b).keepClock = .running 0 s.now ∧
              (t.port b).lapseClock = .running 0 s.now ∧ (t.port b).hold = .none ∧ (t.port b).keepDue = false ∧
              ((s.port b).keepDue = false → SentNow b (bareReq .identify .work) s t ∧ (t.port b).queue = []) ∧
              ((s.port b).keepDue = true → SentNow b (bareReq .keep .work) s t ∧
                (t.port b).queue = [bareReq .identify .work])) ∧
          (∀ code rest, answer = code :: rest → code ≠ 0 →
            ∃ t, exec (.setAnswerReceived b frame) s = .next t ∧ SameCore (s.bay b) (t.bay b) ∧
              t.poller b = { s.poller b with helloOut := (s.port b).queue.any PortReq.isHello } ∧
              (t.port b).linkAlive = (s.port b).linkAlive)) ∧
        (o.req.what = .identify →
          (∀ body i, answer = 0 :: body → o.req.owner = .work → (s.bay b).state = .attaching →
            parseIdentity body = some i →
            ∃ t, exec (.setAnswerReceived b frame) s = .next t ∧ (t.bay b).state = .ready ∧
              (t.bay b).identity = some i ∧ (t.bay b).attachTimer = none ∧ (t.probe b).seeded = false ∧
              Noticed (.identified b i) s t) ∧
          (∀ body, answer = 0 :: body → parseIdentity body = none →
            ∃ t, exec (.setAnswerReceived b frame) s = .next t ∧ FaultTaken b .setRefused 0 s t ∧
              FaultCleansUp b (s.port b).openSection { s.port b with outstanding := none } s t) ∧
          (∀ code rest, answer = code :: rest → code ≠ 0 →
            ∃ t, exec (.setAnswerReceived b frame) s = .next t ∧ FaultTaken b .setRefused code.toNat s t ∧
              FaultCleansUp b (s.port b).openSection { s.port b with outstanding := none } s t))))

/-- Answers in a job and in a tunnel: SHOW answered starts the settle timer; DARK answered clears the showing flag, finishes the
patch and begins the next, by SHOW or by asking for an admission, or moves on to SOLVE after the last; SET REGION answered OK begins
MEASURE with its first patch, refused it rejects the job; FINISH answered OK passes the job and takes link-alive down, refused it
rejects; a pass is replied with the answer as the set sent it, and with a port left free the bay's record, link-alive and its clocks stay as
they are (R11, R12, R18, R48, R59). That a forwarded DARK answered OK leaves a showing flag that stands is the model's choice, log
entry 33 telling when one stands and log entry 48 that it stays; that no DARK of an earlier field releases an admission is its
inference, log entry 11. -/
def Obligations.AnswersInAJobAndInATunnel : Prop :=
  ∀ (b : Bay) (frame answer : List Byte) (o : Outstanding) (s : State), (s.port b).outstanding = some o →
    openFrame 90 1012 frame = some (o.req.what.kind :: answer) →
    (∀ j c, o.req.what = .show → o.req.owner = .work → answer = [0] → s.worksOn b .measure j ∨ s.worksOn b .verify j →
      s.bayClass b = some c →
      ∃ t, exec (.setAnswerReceived b frame) s = .next t ∧ SameCore (s.bay b) (t.bay b) ∧
        (t.bay b).settleTimer = some (s.now + ms c.settle)) ∧
    (∀ j, o.req.what = .dark → o.req.owner = .work → answer = [0] → s.worksOn b .measure j →
      ∃ t, exec (.setAnswerReceived b frame) s = .next t ∧ (t.bay b).state = .running ∧
        ((t.bay b).showing = true → (t.port b).outIs PortReq.isShow = true) ∧
        (j.cursor + 1 ≠ 3 * j.params.levels.length →
          let next := { j with cursor := j.cursor + 1, overtime := 0 }
          (t.bay b).job = some next ∧ PatchBegun b next { s.port b with outstanding := none } s t) ∧
        (j.cursor + 1 = 3 * j.params.levels.length →
          (t.bay b).job = some { j with cursor := j.cursor + 1, overtime := 0, stage := .solve, solveKind := .first } ∧
          t.solve b = some .first ∧ Noticed (.stage b .solve j.pass) s t)) ∧
    (∀ j, o.req.what = .setRegion → o.req.owner = .work → s.worksOn b .region j →
      (answer = [0] →
        ∃ t, exec (.setAnswerReceived b frame) s = .next t ∧ (t.bay b).state = .running ∧
          (t.bay b).job = some { j with stage := .measure, cursor := 0, overtime := 0 } ∧
          Noticed (.stage b .measure j.pass) s t ∧
          PatchBegun b { j with stage := .measure, cursor := 0, overtime := 0 } { s.port b with outstanding := none } s t ∧
          (∀ c level rest, s.bayClass b = some c → j.params.levels = level :: rest → level < c.threshold → level ≠ 1023 →
            (s.port b).freeNext → SentNow b (showReq .red level) s t)) ∧
      (∀ code rest, answer = code :: rest → code ≠ 0 →
        ∃ t, exec (.setAnswerReceived b frame) s = .next t ∧ JobEnded b j .rejectRegion s t ∧
          Noticed (.jobDone b .rejectRegion (s.bay b).serial .region j.pass code.toNat) s t)) ∧
    (∀ j, o.req.what = .finish → o.req.owner = .work → s.worksOn b .finish j →
      (answer = [0] →
        ∃ t, exec (.setAnswerReceived b frame) s = .next t ∧ JobEnded b j .pass s t ∧ (t.port b).linkAlive = false ∧
          ((s.port b).tunnel = none → Noticed (.jobDone b .pass (s.bay b).serial .finish j.pass 0) s t)) ∧
      (∀ code rest, answer = code :: rest → code ≠ 0 →
        ∃ t, exec (.setAnswerReceived b frame) s = .next t ∧ JobEnded b j .rejectSet s t ∧
          Noticed (.jobDone b .rejectSet (s.bay b).serial .finish j.pass code.toNat) s t)) ∧
    (∀ k x tag, o.req.what = .forwarded k → (s.port b).tunnel = some x → x.pass = .sent tag → 1 ≤ s.link.setAside →
      s.link.resetPending = false →
      ∃ t, exec (.setAnswerReceived b frame) s = .next t ∧
        t.link = { s.link with placed := s.link.placed ++ [.reply 17 tag .ok (byteOf b.val :: k :: answer)],
                               setAside := s.link.setAside - 1 } ∧
        ((s.port b).freeNext → (t.port b).tunnel = some { x with pass := .none } ∧ (t.port b).outstanding = none ∧
          (t.port b).linkAlive = true ∧ (t.port b).keepClock = (s.port b).keepClock ∧
          (t.port b).lapseClock = (s.port b).lapseClock ∧ t.bay b = s.bay b ∧ t.pollers = s.pollers))

/-- Answers in a map transfer and a key transfer: OPEN SECTION answered sends burst 0; the last burst's check value, matching, marks
the section and has the next one opened, or APPLY MAP placed after the last; differing, it leaves the section PARTIAL, rewrites it
once and then rejects, its zones all confirmed until it is opened again; APPLY MAP answered makes the frame WRITTEN and begins VERIFY,
whose first patch asks for an admission; a matching STORED binds the record to the set, erasing its blob, and the next class is asked
for, or FINISH begins; a differing one voids it, and the first time another key of the class is asked for (R16, R17, R63, R64, R122 to
R126, R143, R151, R152). That no DARK of an earlier field releases the admission is the model's inference, log entry 11. -/
def Obligations.AnswersInTransfers : Prop :=
  ∀ (b : Bay) (frame : List Byte) (o : Outstanding) (j : Job) (s : State), (s.port b).outstanding = some o →
    o.req.owner = .work →
    let q := s.seq b
    (∀ id, openFrame 90 1012 frame = some [11, 0] → o.req.what = .openSection id → s.worksOn b .transfer j →
      ∃ t, exec (.setAnswerReceived b frame) s = .next t ∧ SameCore (s.bay b) (t.bay b) ∧ (t.seq b).phase = .bursting ∧
        (t.seq b).burst = 0 ∧
        ((s.port b).freeNext → SentNow b (burstReq q.sec 0 (sectionCells s b q.sec)) s t)) ∧
    (∀ k x y f, openFrame 90 1012 frame = some [12, 0, x, y] → o.req.what = .burst q.sec k true → s.worksOn b .transfer j →
      (s.area b).frame = some f → q.sec < 12 →
      let good := x.toNat * 256 + y.toNat = (expectedCheck (sectionCells s b q.sec)).toNat
      let closed := { s.port b with outstanding := none, openSection := none, lapseClock := (s.port b).lapseClock.resume s.now,
                                    queue := (s.port b).queue.filter (fun r => !r.isClose) }
      let closedAs (t : State) (a : SectionOutcome) := (t.area b).frame.map MapFrame.sections =
        some (f.sections.modify q.sec (fun c => { c with outcome := a }))
      ∃ t, exec (.setAnswerReceived b frame) s = .next t ∧
        (good → (t.seq b).sec = q.sec + 1 ∧ (t.seq b).rewrites = q.rewrites ∧ (t.bay b).state = .running ∧
          (q.sec + 1 < f.sections.length → (t.seq b).phase = .opening ∧ (t.seq b).burst = 0 ∧
            PlacedInTurn b closed [openReq (q.sec + 1)] s t) ∧
          (f.sections.length ≤ q.sec + 1 → (t.seq b).phase = .applying ∧
            PlacedInTurn b closed [bareReq .applyMap .work] s t) ∧
          closedAs t (if get12 q.rewrites q.sec = 0 then .written else .rewritten) ∧
          ((∀ r ∈ (s.port b).queue, r.what ≠ .openSection q.sec) → get12 (t.seq b).confirmed q.sec = f.cols * f.rows)) ∧
        (¬ good → get12 q.rewrites q.sec = 0 → (t.seq b).sec = q.sec ∧ (t.seq b).phase = .opening ∧
          get12 (t.seq b).rewrites q.sec = 1 ∧ (t.bay b).state = .running ∧ closedAs t .incomplete ∧
          PlacedInTurn b closed [openReq q.sec] s t ∧
          get12 (t.seq b).confirmed q.sec =
            (if (t.port b).outstanding.map (fun x => x.req.what) = some (.openSection q.sec) then 0 else f.cols * f.rows)) ∧
        (¬ good → get12 q.rewrites q.sec ≠ 0 → JobEnded b j .rejectSet s t ∧ closedAs t .incomplete ∧
          ((∀ r ∈ (s.port b).queue, r.what ≠ .openSection q.sec) → get12 (t.seq b).confirmed q.sec = f.cols * f.rows) ∧
          Noticed (.jobDone b .rejectSet (s.bay b).serial .transfer j.pass q.sec) s t)) ∧
    (∀ f, openFrame 90 1012 frame = some [14, 0] → o.req.what = .applyMap → s.worksOn b .transfer j →
      (s.area b).frame = some f → f.state = .writing →
      ∃ t, exec (.setAnswerReceived b frame) s = .next t ∧
        (t.area b).frame = some { f with state := .written } ∧ (t.area b).rows.get 12 = none ∧
        (t.area b).rows.get 13 = none ∧ (t.area b).rows.get 14 = none ∧ (t.bay b).state = .running ∧
        (t.bay b).job = some { j with stage := .verify, cursor := 0, overtime := 0 } ∧
        Noticed (.stage b .verify j.pass) s t ∧ (t.seq b).phase = .idle ∧
        (b ∉ s.gov.claimants → AdmissionAsked b s.gov s t ∧
          (s.gov.queue = [] → earliestGrant s.gov s.link.params b s.now ≤ s.now → (s.port b).freeNext →
            SentNow b (showReq .red (j.params.levels.getLastD 0)) s t))) ∧
    (∀ id k w x y z, openFrame 90 1012 frame = some [10, 0, w, x, y, z] → o.req.what = .keyEnd → s.worksOn b .keys j →
      (s.xfer b).keyId = some id → s.stock.find id = some k → k.state = .sending b →
      let good := ((w.toNat * 256 + x.toNat) * 65536 + (y.toNat * 256 + z.toNat)) = k.check.toNat
      let p := { s.port b with outstanding := none }
      let bound := { k with state := .bound (s.bay b).serial, blob := none }
      let voided := { k with state := .voided (some (s.bay b).serial) .storedMismatch, blob := none }
      let replaced (y : KeyRec) : Stock := { s.stock with records := s.stock.records.map (fun r => if r.keyId = id then y else r) }
      ∃ t r, exec (.setAnswerReceived b frame) s = .next t ∧ t.stock.find id = some r ∧ r.blob = none ∧
        (good → r.state = .bound (s.bay b).serial ∧ (t.bay b).state = .running ∧
          (t.bay b).job.map Job.keyCursor = some (j.keyCursor + 1) ∧ (t.bay b).job.map Job.attempts = some 0 ∧
          Noticed (.keyBound k.keyId k.cls k.batch b (s.bay b).serial) s t ∧
          (StockOk s.stock → s.stock.claimants.Nodup →
            KeyAsked b { j with keyId := none, attempts := 0, keyCursor := j.keyCursor + 1 } (replaced bound) p
              [.keyBound k.keyId k.cls k.batch b (s.bay b).serial] s t)) ∧
        (¬ good → r.state = .voided (some (s.bay b).serial) .storedMismatch ∧
          Noticed (.keyVoided k.keyId k.cls k.batch b (some (s.bay b).serial) .storedMismatch) s t ∧
          (j.attempts = 0 → (t.bay b).state = .running ∧ (t.bay b).job.map Job.attempts = some 1 ∧
            (StockOk s.stock → s.stock.claimants.Nodup → (keyWanted s b).isSome = true →
              KeyAsked b { j with keyId := none, attempts := 1 } (replaced voided) p
                [.keyVoided k.keyId k.cls k.batch b (some (s.bay b).serial) .storedMismatch] s t)) ∧
          (j.attempts ≠ 0 → JobEnded b { j with keyId := none } .rejectKey s t)))

/-- DARK answered in VERIFY finishes the patch: with patches left the next one begins, asking for an admission; after the third
the evaluation measures each filled verify row, and decides: every channel at or above the target makes the frame VERIFIED and
KEYS begins with the first key class, or FINISH with none; otherwise a pass below the iteration limit is solved again, and one at
the limit ends the job REJECT_PANEL with detail 4 (R12, R16, R17, R110). The showing flag and the frame are stated where no SHOW
and no OPEN SECTION waits behind the DARK, as none does in a run. That no DARK of an earlier field releases the admission is the
model's inference, log entry 11. -/
def Obligations.TheVerifyEvaluationDecides : Prop :=
  ∀ (b : Bay) (frame : List Byte) (o : Outstanding) (j : Job) (s : State), (s.port b).outstanding = some o →
    o.req.what = .dark → o.req.owner = .work → openFrame 90 1012 frame = some [7, 0] → s.worksOn b .verify j →
    (j.cursor + 1 ≠ 3 →
      ∃ t, exec (.setAnswerReceived b frame) s = .next t ∧ (t.bay b).state = .running ∧
        (t.bay b).job = some { j with cursor := j.cursor + 1, overtime := 0 } ∧
        (b ∉ s.gov.claimants → AdmissionAsked b s.gov s t ∧
          (s.gov.queue = [] → s.now < earliestGrant s.gov s.link.params b s.now → (∀ r ∈ (s.port b).queue, r.what ≠ .show) →
            (t.bay b).showing = false) ∧
          (s.gov.queue = [] → earliestGrant s.gov s.link.params b s.now ≤ s.now → (s.port b).freeNext →
            SentNow b (showReq (channelOf (j.cursor + 1)) (j.params.levels.getLastD 0)) s t))) ∧
    (j.cursor + 1 = 3 →
      let rows : List Nat := [12, 13, 14]
      let uniformity (i : Nat) := match (s.area b).row i with
        | none => 0
        | some r => measuredUniformity r.readings
      let verified := ∀ i ∈ rows, j.params.target ≤ uniformity i
      let done := { j with cursor := 3, overtime := 0 }
      ∃ t, exec (.setAnswerReceived b frame) s = .next t ∧
        (∀ i, (t.area b).row i = ((s.area b).row i).map (fun r =>
          if i ∈ rows then { r with uniformity := some (measuredUniformity r.readings) } else r)) ∧
        (verified →
          (t.area b).frame = (s.area b).frame.map (fun f => { f with state := .verified }) ∧ (t.bay b).state = .running ∧
          NoticedInTurn [.stage b .keys j.pass] s t ∧
          (StockOk s.stock → b ∉ s.stock.claimants → j.keyId = none →
            KeyAsked b { done with stage := .keys, keyCursor := 0, attempts := 0 } s.stock
              { s.port b with outstanding := none } [.stage b .keys j.pass] s t)) ∧
        (¬ verified →
          ((∀ r ∈ (s.port b).queue, ∀ id, r.what ≠ .openSection id) → (t.area b).frame = (s.area b).frame) ∧
          (j.pass < j.params.iterLimit → (t.bay b).state = .running ∧
            (t.bay b).job = some { done with stage := .solve, solveKind := .resolve } ∧ t.solve b = some .resolve ∧
            NoticedInTurn [.stage b .solve j.pass] s t) ∧
          (j.params.iterLimit ≤ j.pass → JobEnded b done .rejectPanel s t ∧
            NoticedInTurn [.jobDone b .rejectPanel (s.bay b).serial .verify j.pass 4] s t)))

/-- The hold state. HOLD answered OK puts the set in hold with both clocks stopped and sends the WAKE kept pending; refused, the
set is not in hold and the bay faults. AWAKE ends hold with both clocks from 0 and starts the transfer of the bay's reservation,
or lets the queue go on; a refused WAKE leaves the set in hold and the bay faults, its cleanup placing WAKE again (R26, R53, R55,
R56, R147, R149). A waiting bay given a loaded key wakes a set in hold, keeps WAKE pending in ENTERING, and out of hold withdraws
its HOLD and starts the transfer (R145, R147). keepTaken, which hold and its end empty, is the model's own field, log entry 22; that
a refusal in TUNNEL has a QUEUED pass replied before its FAULT notice is the model's choice, log entry 47. An engine that a cleanup
frees sends a probe a request, whose timeout starts as log entry 6 says. -/
def Obligations.HoldAndWakeMoveTheHoldState : Prop :=
  (∀ (b : Bay) (frame : List Byte) (o : Outstanding) (s : State), (s.port b).outstanding = some o →
    let p := s.port b
    let ended := { p with outstanding := none }
    let woken := { ended with hold := .none, keepClock := .running 0 s.now, keepTaken := none, lapseClock := .running 0 s.now }
    (o.req.what = .hold → p.hold = .entering →
      (openFrame 90 1012 frame = some [4, 0] → (∀ r ∈ p.queue, r.isWake = false) → p.linkAlive = true →
        (p.wakePending = false → exec (.setAnswerReceived b frame) s = .next (s.setPort b { ended with
          hold := .held, keepClock := .stopped, lapseClock := .stopped, keepDue := false, keepTaken := none })) ∧
        (p.wakePending = true → ∃ t, exec (.setAnswerReceived b frame) s = .next t ∧ SameCore (s.bay b) (t.bay b) ∧
          SentNow b (bareReq .wake .cleanup) s t ∧ (t.port b).hold = .waking ∧ (t.port b).wakePending = false ∧
          (t.port b).keepClock = .stopped ∧ (t.port b).lapseClock = .stopped ∧ (t.port b).queue = p.queue)) ∧
      (∀ code rest, openFrame 90 1012 frame = some (4 :: code :: rest) → code ≠ 0 →
        ∃ t, exec (.setAnswerReceived b frame) s = .next t ∧ FaultTaken b .setRefused code.toNat s t ∧
          FaultCleansUp b p.openSection { ended with hold := .none, wakePending := false } s t ∧
          (p.linkAlive = true → (t.port b).keepClock = p.keepClock ∧ (isOrigin (s.bay b).state → (t.port b).hold = .none)))) ∧
    (o.req.what = .wake → p.hold = .waking →
      (openFrame 90 1012 frame = some [5, 0] → p.linkAlive = true → p.keepDue = false →
        (¬ (∃ j, s.worksOn b .keys j) → p.queue = [] → exec (.setAnswerReceived b frame) s = .next (s.setPort b woken)) ∧
        (¬ (∃ j, s.worksOn b .keys j) → ∀ r rest, p.queue = r :: rest →
          ∃ t, exec (.setAnswerReceived b frame) s = .next t ∧ SentNow b r s t ∧ (t.port b).queue = rest) ∧
        (∀ j id k, s.worksOn b .keys j → (s.xfer b).phase = .idle → j.keyId = some id → s.stock.find id = some k →
          k.state = .reserved b → StockOk s.stock → s.stock.claimants.Nodup →
          let blob := k.blob.getD []
          ∃ t, exec (.setAnswerReceived b frame) s = .next t ∧ (t.bay b).state = .running ∧
            (t.port b).keepClock = .running 0 s.now ∧
            (crc32 blob = k.check → (t.bay b).job = some j ∧
              t.xfer b = { phase := .chunks, keyId := some id, chunks := (k.blobLen + 255) / 256, cursor := 0 } ∧
              (p.queue = [] → SentNow b (chunkReq k.cls 0 ((k.blobLen + 255) / 256) blob) s t ∧
                t.stock.find id = some { k with state := .sending b })) ∧
            (crc32 blob ≠ k.check → (keyWanted s b).isSome = true →
              KeyAsked b { j with keyId := none }
                { s.stock with records := s.stock.records.map (fun x =>
                  if x.keyId = id then { x with state := .voided none .preSendCheck, blob := none } else x) }
                woken [.keyVoided k.keyId k.cls k.batch b none .preSendCheck] s t))) ∧
      (∀ code rest, openFrame 90 1012 frame = some (5 :: code :: rest) → code ≠ 0 →
        ∃ t, exec (.setAnswerReceived b frame) s = .next t ∧ FaultTaken b .setRefused code.toNat s t ∧
          FaultCleansUp b p.openSection { ended with hold := .held } s t ∧
          (¬ isOrigin (s.bay b).state → p.linkAlive = true → (∀ r ∈ p.queue, r.isWake = false) →
            t.port b = { ended with hold := .held })))) ∧
  ∀ (tag : Nat) (k : KeyFields) (w : KeyWait) (j : Job) (s t : State), s.entryFree → 1 ≤ tag →
    exec (.keyLoad tag k) s = .next t → Replied 24 tag .ok (seqBytes s.stock.nextSeq) s t →
    s.stock.waiting.find? (fun x => fits x.cls x.region (newRecord k s.stock.nextSeq)) = some w →
    s.worksOn w.bay .keys j → j.keyId = none →
    let p := s.port w.bay
    let chunk := chunkReq k.cls 0 ((k.blobLen + 255) / 256) k.blob
    (p.hold = .held → p.linkAlive = true → p.outstanding = none → (∀ r ∈ p.queue, r.isWake = false) →
      SentNow w.bay (bareReq .wake .work) s t ∧ (t.port w.bay).hold = .waking) ∧
    (p.hold = .entering → (t.port w.bay).wakePending = true ∧ (t.port w.bay).outstanding = p.outstanding) ∧
    (p.hold = .none →
      t.xfer w.bay = { phase := .chunks, keyId := some k.keyId, chunks := (k.blobLen + 255) / 256, cursor := 0 } ∧
      PlacedInTurn w.bay { p with queue := p.queue.filter (fun r => !r.isHold) } [chunk] s t)

/-- A key transfer. A chunk answered OK is followed by the next, the last by KEY END. A refused chunk or KEY END, or one whose OK
lacks its form, VOIDS the record at the set's serial with the code: the first time the bay asks for another key of the class, the
second the job ends REJECT_KEY with the class (R17, R44, R148 to R150, R152). That the transfer's counts are 0 once it is IDLE is
the model's choice, log entry 40. -/
def Obligations.AKeyTransferGoesChunkByChunk : Prop :=
  ∀ (b : Bay) (frame : List Byte) (o : Outstanding) (j : Job) (id : Nat) (r : KeyRec) (s : State),
    (s.port b).outstanding = some o → o.req.owner = .work → s.worksOn b .keys j → (s.xfer b).keyId = some id →
    s.stock.find id = some r →
    let x := s.xfer b
    let p := { s.port b with outstanding := none }
    (∀ k last, openFrame 90 1012 frame = some [9, 0] → o.req.what = .storeKey k last →
      let next := if last then keyEndReq r.cls x.chunks else chunkReq r.cls (k + 1) x.chunks (r.blob.getD [])
      ∃ t, exec (.setAnswerReceived b frame) s = .next t ∧ SameCore (s.bay b) (t.bay b) ∧ (t.bay b).job = some j ∧
        t.xfer b = { x with cursor := k + 1, phase := if last then .ending else .chunks } ∧ PlacedInTurn b p [next] s t ∧
        (p.queue = [] → t.stock = s.stock)) ∧
    (∀ kind code rest, openFrame 90 1012 frame = some (kind :: code :: rest) → kind = o.req.what.kind →
      (∃ k last, o.req.what = .storeKey k last) ∨ o.req.what = .keyEnd →
      code ≠ 0 ∨ okBodyForm o.req.what rest = false →
      StockOk s.stock → s.stock.claimants.Nodup → r.state = .sending b →
      let void (y : KeyRec) := { y with state := .voided (some (s.bay b).serial) (.setRefused code), blob := none }
      let said := Notice.keyVoided id r.cls r.batch b (some (s.bay b).serial) (.setRefused code)
      ∃ t, exec (.setAnswerReceived b frame) s = .next t ∧ void r ∈ t.stock.records ∧ NoticedInTurn [said] s t ∧
        (j.attempts = 0 → (keyWanted s b).isSome = true → (t.bay b).state = .running ∧
          KeyAsked b { j with keyId := none, attempts := 1 }
            { s.stock with records := s.stock.records.map (fun y => if y.keyId = id then void y else y) } p [said] s t) ∧
        (j.attempts ≠ 0 → JobEnded b { j with keyId := none } .rejectKey s t ∧ t.xfer b = Xfer.reset ∧
          NoticedInTurn [said, .jobDone b .rejectKey (s.bay b).serial .keys j.pass r.cls] s t))

/-- Section requests. A burst that is not the last, answered OK, raises its section's confirmed zones, and the sequencer places the
next; the last one of a bay that has been cleaned up closes the section without a comparison. CLOSED answering a CLOSE SECTION
ends the open-section record, withdraws a CLOSE still queued and lets the port go on, a sequencer waiting in CLOSING opening the
section at its cursor or applying the map (R50, R54, R120, R122, R127, R128, R130). That what the port sends, a KEEP due first, goes
out before a lapse where the lapse clock resumes at or above a deadline shortened meanwhile is the model's choice, log entry 45. -/
def Obligations.SectionRequestsEnd : Prop :=
  ∀ (b : Bay) (frame : List Byte) (o : Outstanding) (s : State), (s.port b).outstanding = some o →
    let q := s.seq b
    let p := { s.port b with outstanding := none }
    let closed := { p with openSection := none, lapseClock := p.lapseClock.resume s.now,
                           queue := p.queue.filter (fun r => !r.isClose) }
    let awaited := (∃ j, s.worksOn b .transfer j) ∧ q.phase = .closing
    let goesOn (t : State) := ∀ f, (s.area b).frame = some f →
      (q.sec < f.sections.length → (t.seq b).phase = .opening ∧ (t.seq b).sec = q.sec ∧ (t.seq b).burst = 0 ∧
        PlacedInTurn b closed [openReq q.sec] s t) ∧
      (f.sections.length ≤ q.sec → (t.seq b).phase = .applying ∧ PlacedInTurn b closed [bareReq .applyMap .work] s t)
    (∀ id k, o.req.what = .burst id k false → openFrame 90 1012 frame = some [12, 0] →
      let confirmed := set12 q.confirmed id (64 * (k + 1))
      (∀ j, o.req.owner = .work → s.worksOn b .transfer j →
        ∃ t, exec (.setAnswerReceived b frame) s = .next t ∧ SameCore (s.bay b) (t.bay b) ∧ (t.bay b).job = some j ∧
          (p.queue = [] → t.seq b = { q with phase := .bursting, burst := k + 1, confirmed := confirmed }) ∧
          PlacedInTurn b p [burstReq q.sec (k + 1) (sectionCells s b q.sec)] s t) ∧
      (o.req.owner ≠ .work →
        (p.queue = [] → p.keepDue = false → exec (.setAnswerReceived b frame) s =
          .next ((s.setPort b p).setSeq b { q with confirmed := confirmed })) ∧
        (∀ r rest, p.queue = r :: rest → p.linkAlive = true → p.hold = .none → p.openSection.isSome = true →
          (∀ n, r.what ≠ .openSection n) →
          ∃ t, exec (.setAnswerReceived b frame) s = .next t ∧ SentNow b r s t ∧ (t.port b).queue = rest ∧
            t.seq b = { q with confirmed := confirmed } ∧ t.area b = s.area b))) ∧
    (∀ id k x y f, o.req.what = .burst id k true → openFrame 90 1012 frame = some [12, 0, x, y] → o.req.owner ≠ .work →
      (s.area b).frame = some f →
      (¬ awaited → closed.queue = [] → p.keepDue = false → exec (.setAnswerReceived b frame) s =
        .next ((s.setPort b closed).setSeq b { q with confirmed := set12 q.confirmed id (f.cols * f.rows) })) ∧
      (awaited → ∃ t, exec (.setAnswerReceived b frame) s = .next t ∧ goesOn t)) ∧
    (∀ id x y, o.req.what = .closeSection id → openFrame 90 1012 frame = some [13, 0, x, y] →
      (¬ awaited → closed.queue = [] → p.keepDue = false → exec (.setAnswerReceived b frame) s = .next (s.setPort b closed)) ∧
      (¬ awaited → p.linkAlive = true → p.hold = .none →
        (p.keepDue = true → ∃ t, exec (.setAnswerReceived b frame) s = .next t ∧ SentNow b (bareReq .keep .work) s t ∧
          (t.port b).openSection = none ∧ (t.port b).queue = closed.queue) ∧
        (∀ r rest, p.keepDue = false → closed.queue = r :: rest →
          ∃ t, exec (.setAnswerReceived b frame) s = .next t ∧ SentNow b r s t ∧ (t.port b).queue = rest)) ∧
      (awaited → ∃ t, exec (.setAnswerReceived b frame) s = .next t ∧ goesOn t))

/-- Refusals and left-over requests. A refused SHOW, DARK, OPEN SECTION, BURST, CLOSE SECTION or APPLY MAP, and any job request
refused after its bay has been cleaned up, faults the bay with SET_REFUSED and the code: a refused OPEN SECTION leaves no section
open and its outcome as it stood, any other leaves it for the cleanup to close; OPENED after a cleanup lets the queued CLOSE go,
with the section PARTIAL from then on (R12, R15, R20, R22, R26, R54, R126 to R128). A request left over from before a cleanup and
answered OK moves no job: APPLY MAP makes a frame in WRITING WRITTEN, a chunk or KEY END lets a HALTED transfer end, DARK clears the
showing flag; the DARK of a revocation lets the SHOW of a grant go, its admission held (R26, R58, R71, R127, R129, R153). A FINISH left over and answered OK
takes link-alive down with what R48 says of it, a queued pass replied and the job's verdict as it was: the model's reading, log
entry 37; that a KEEP then due is due no longer is log entry 43. That a HALTED transfer's counts are 0 once it is IDLE is the
model's choice, log entry 40; when the section of a cleanup becomes PARTIAL is its reading, log entry 8. That a refused OPEN SECTION
or FINISH faults with SET_REFUSED before any lapse, where the lapse clock resumes at or above a deadline shortened meanwhile, is the
model's choice, log entry 45; that a refusal in TUNNEL has a QUEUED pass replied before its FAULT notice is log entry 47. An engine
that a cleanup frees sends a probe a request, whose timeout starts as log entry 6 says. -/
def Obligations.RefusalsAndLeftOverRequestsEnd : Prop :=
  ∀ (b : Bay) (frame body : List Byte) (code : Byte) (o : Outstanding) (s : State), (s.port b).outstanding = some o →
    openFrame 90 1012 frame = some (o.req.what.kind :: code :: body) →
    let p := { s.port b with outstanding := none }
    let key := (∃ k last, o.req.what = .storeKey k last) ∨ o.req.what = .keyEnd
    let job := o.req.what = .setRegion ∨ o.req.what = .finish ∨ key
    let sections := (∃ id, o.req.what = .openSection id) ∨ (∃ id k last, o.req.what = .burst id k last)
    let faults := o.req.what = .show ∨ o.req.what = .dark ∨ sections ∨ (∃ id, o.req.what = .closeSection id) ∨
      o.req.what = .applyMap
    (code ≠ 0 ∨ okBodyForm o.req.what body = false → faults ∨ (job ∧ o.req.owner ≠ .work) →
      ∃ t, exec (.setAnswerReceived b frame) s = .next t ∧ FaultTaken b .setRefused code.toNat s t ∧
        ((∃ id, o.req.what = .openSection id) → FaultCleansUp b none { p with
          openSection := none, lapseClock := p.lapseClock.resume s.now, queue := p.queue.filter (fun r => !r.isClose) } s t) ∧
        ((∀ id, o.req.what ≠ .openSection id) → FaultCleansUp b p.openSection p s t) ∧
        ((∃ id, o.req.what = .openSection id) → (s.bay b).state = .faulted → (∀ r ∈ p.queue, ∀ id, r.what ≠ .openSection id) →
          t.area b = s.area b ∧ (t.port b).openSection = none ∧ ∀ r ∈ (t.port b).queue, r.isClose = false) ∧
        (key → (s.xfer b).phase = .halted → t.xfer b = Xfer.reset)) ∧
    (code = 0 → okBodyForm o.req.what body = true → o.req.owner = .orphan →
      o.req.what = .identify ∨ o.req.what = .show ∨ o.req.what = .setRegion ∨ o.req.what = .applyMap ∨ key ∨
        (∃ id, o.req.what = .openSection id) →
      ∃ t, exec (.setAnswerReceived b frame) s = .next t ∧ SameCore (s.bay b) (t.bay b) ∧ (t.bay b).job = (s.bay b).job ∧
        (t.bay b).settleTimer = (s.bay b).settleTimer ∧ (t.area b).rows = (s.area b).rows ∧
        (key → t.xfer b = if (s.xfer b).phase = .halted then Xfer.reset else s.xfer b) ∧
        (p.queue = [] → p.keepDue = false → t.port b = p ∧ t.stock = s.stock ∧ t.seq b = s.seq b ∧
          (t.area b).frame = (s.area b).frame.map (fun f =>
            if o.req.what = .applyMap ∧ f.state = .writing then { f with state := .written } else f))) ∧
    (∀ id rest, code = 0 → body = [] → o.req.what = .openSection id → o.req.owner = .orphan → p.openSection = some id →
      p.queue = closeReq id :: rest → p.linkAlive = true → p.hold = .none →
      ∃ t, exec (.setAnswerReceived b frame) s = .next t ∧ SameCore (s.bay b) (t.bay b) ∧ SentNow b (closeReq id) s t ∧
        (t.port b).queue = rest ∧ (t.port b).openSection = some id ∧ t.seq b = s.seq b ∧
        (t.area b).rows = (s.area b).rows ∧
        (t.area b).frame = (s.area b).frame.map (fun f => f.leftPartial (some id))) ∧
    (code = 0 → body = [] → o.req.what = .dark →
      (o.req.owner = .cleanup ∨ o.req.owner = .orphan ∨ (o.req.owner = .restart ∧ (s.bay b).showPending = false) →
        p.queue = [] → p.keepDue = false →
        exec (.setAnswerReceived b frame) s = .next ((s.setPort b p).setBay b { s.bay b with showing := false })) ∧
      (∀ j, o.req.owner = .restart → (s.bay b).showPending = true → (s.bay b).job = some j →
        ∃ t, exec (.setAnswerReceived b frame) s = .next t ∧ SameCore (s.bay b) (t.bay b) ∧ (t.bay b).job = some j ∧
          (t.bay b).showPending = false ∧ (p.queue = [] → t.gov = s.gov) ∧
          PlacedInTurn b p [showReq (patchAt j).channel (patchAt j).level] s t)) ∧
    (code = 0 → body = [] → o.req.what = .finish → o.req.owner = .orphan →
      ∃ t, exec (.setAnswerReceived b frame) s = .next t ∧ t.bay b = s.bay b ∧
        t.poller b = { s.poller b with helloOut := false } ∧
        { t.port b with tunnel := none } = { p.down with tunnel := none } ∧
        (t.area b).frame = (s.area b).frame.map (fun f => f.leftPartial p.openSection) ∧ (t.area b).rows = (s.area b).rows ∧
        t.seq b = s.seq b ∧ t.xfer b = s.xfer b ∧ t.gov = s.gov ∧ t.engine = s.engine ∧ t.stock = s.stock ∧
        t.table = s.table ∧
        ((∀ x tag, p.tunnel = some x → x.pass ≠ .queued tag) → t.link = s.link ∧ (t.port b).tunnel = p.tunnel) ∧
        (∀ x tag, p.tunnel = some x → x.pass = .queued tag → s.link.resetPending = false → 1 ≤ s.link.setAside →
          (t.port b).tunnel = some { x with pass := .none } ∧
          t.link = { s.link with placed := s.link.placed ++ [.reply 17 tag .badState []],
                                 setAside := s.link.setAside - 1 }))

/-! ## Keep-alive, settle timer, governor, engine, solver -/

/-- A KEEP falls due when keep-alive runs and its clock has reached the interval: a port with nothing outstanding, no hold and no
section open sends it at once, restarting the lapse clock; one with a request outstanding, a KEEP included, keeps it due, and so
does one with a section open and nothing to send, as a refused CLOSE SECTION leaves it (R49, R50, R53, R54). Each reaching is
taken once: keepTaken, the model's own field, says what the clock read then (log entry 22). -/
def Obligations.AKeepFallsDueAndIsSent : Prop :=
  ∀ (b : Bay) (base since : Nat) (s : State), (s.port b).linkAlive = true →
    (s.port b).keepClock = .running base since → ms s.link.params.keepInterval ≤ base + (s.now - since) →
    let taken := ∃ r, (s.port b).keepTaken = some r ∧ ms s.link.params.keepInterval ≤ r
    (¬ taken → (s.port b).hold = .none → (s.port b).openSection = none → (s.port b).outstanding = none →
      ∃ t, exec (.keepDue b) s = .next t ∧ SentNow b (bareReq .keep .work) s t ∧ (t.port b).keepDue = false ∧
        (t.port b).lapseClock = .running 0 s.now ∧ (t.port b).queue = (s.port b).queue ∧ SameCore (s.bay b) (t.bay b)) ∧
    (¬ taken → (s.port b).hold = .none ∨ (s.port b).hold = .entering → (s.port b).outstanding.isSome = true →
      exec (.keepDue b) s = .next (s.setPort b { s.port b with
        keepDue := true, keepTaken := some (base + (s.now - since)) })) ∧
    (¬ taken → (s.port b).hold = .none → (s.port b).openSection.isSome = true → (s.port b).outstanding = none →
      (s.port b).queue = [] → exec (.keepDue b) s = .next (s.setPort b { s.port b with
        keepDue := true, keepTaken := some (base + (s.now - since)) })) ∧
    (taken → exec (.keepDue b) s = .next s)

/-- When the settle timer expires, the bay places a capture queue entry for its patch with the grid of its class and the next
entry number, which it holds; an idle engine chooses, from the whole queue, the oldest entry whose probe is WARM and sends its probe a
request, whose timeout starts when its last byte has left, log entry 6 (R12, R78 to R80, R82, R83, R85, R87). -/
def Obligations.TheSettleTimerPlacesAnEntry : Prop :=
  ∀ (b : Bay) (due : Nat) (j : Job) (c : ClassFields) (s : State), (s.bay b).settleTimer = some due → due ≤ s.now →
    s.worksOn b .measure j ∨ s.worksOn b .verify j → s.bayClass b = some c → (∀ x ∈ s.engine.queue, x.bay ≠ b) →
    let n := if s.engine.lastNumber = 65535 then 1 else s.engine.lastNumber + 1
    let e : Entry := { bay := b, row := if j.stage = .verify then 12 + j.cursor else j.cursor, samples := j.params.samples,
                       cols := c.cols, rows := c.rows, number := n }
    ∃ t, exec (.settleTimerExpiry b) s = .next t ∧ t.engine.queue = s.engine.queue ++ [e] ∧ t.engine.lastNumber = n ∧
      t.bay b = { s.bay b with settleTimer := none, entry := some n } ∧ t.link = s.link ∧
      (∀ x, s.engine.current = some x → t.engine.current = some x) ∧
      (s.engine.current = none → EngineChose (s.engine.queue ++ [e]) s t)

/-- At the head timer's expiry the head is granted when its earliest instant has come: it leaves the queue, joins the held set
with its overtime timer, and is recorded as the newest grant; a RUNNING bay sends its SHOW. Were it not yet allowed, the timer
would be armed again (R66, R67, R68). It stays in the held set unless a DARK of the stage's own or a forwarded one is queued at a port
with nothing outstanding, which would be sent at once and release it (R69). A DARK of a field before the grant releases nothing (R58,
R71): the model's inference, log entry 11. -/
def Obligations.TheHeadIsGranted : Prop :=
  ∀ (due : Nat) (w : Waiting) (rest : List Waiting) (s : State), s.gov.headTimer = some due → due ≤ s.now →
    s.gov.queue = w :: rest →
    let t := earliestGrant s.gov s.link.params w.bay s.now
    (s.now < t → exec .headTimerExpiry s = .next (s.setGov { s.gov with headTimer := some t })) ∧
    (t ≤ s.now → ∃ u, exec .headTimerExpiry s = .next u ∧
      { time := s.now, bay := w.bay } :: s.gov.history <:+ u.gov.history ∧ u.gov.queue <:+ rest ∧
      ((s.port w.bay).outstanding.isSome = true ∨ (∀ r ∈ (s.port w.bay).queue, r.endsAdmission = false) →
        { bay := w.bay, granted := s.now, expires := s.now + ms s.link.params.holdLimit } ∈ u.gov.held) ∧
      (rest = [] → u.gov.queue = [] ∧ u.gov.headTimer = none ∧
        (railOf w.bay = .railA → u.gov.lastA = some s.now ∧ u.gov.lastB = s.gov.lastB) ∧
        (railOf w.bay = .railB → u.gov.lastB = some s.now ∧ u.gov.lastA = s.gov.lastA)) ∧
      (∀ j, (s.bay w.bay).state = .running → (s.bay w.bay).job = some j → (s.port w.bay).free →
        SentNow w.bay (showReq (patchAt j).channel (patchAt j).level) s u))

/-- An admission held to its limit is revoked: the settle timer stops, the capture entry is withdrawn with nothing written to the
sheet, the row of one whose capture has completed returned, the overtime retries are counted. A SHOW not yet sent is withdrawn,
otherwise DARK is placed, and a SHOW still outstanding will start no settle timer. On the first and second revocation of a patch the
bay requests again, its overtime count raised, and a request granted at once sends SHOW only where no such DARK is out; on the third
it faults with DRIVE_OVERTIME and is cleaned up (R13, R25, R64, R70, R71, R95, R96, R103). The fault is stated of a port that with
nothing outstanding has nothing it could send, as EveryStepKeepsWhatWaitsAtThePorts says of every step. That no row returns but
a completed capture's is the model's reading, log entry 39; when the open section becomes PARTIAL is log entry 8. An engine that was
taking the entry chooses the next and sends its probe a request (R95), whose timeout starts as log entry 6 says. That the DARK placed
here releases no admission granted before it is sent is the model's inference, log entry 11. -/
def Obligations.AnOvertimeIsRevoked : Prop :=
  ∀ (b : Bay) (h : Held) (j : Job) (s : State), h ∈ s.gov.held → h.bay = b → h.expires ≤ s.now →
    (s.bay b).job = some j →
    let g := { s.gov with held := s.gov.held.filter (fun x => decide (x.bay ≠ b)) }
    let p := s.port b
    let unsent := ∃ r ∈ p.queue, r.what = .show
    let atOnce := s.gov.queue = [] ∧ earliestGrant g s.link.params b s.now ≤ s.now ∧ (s.bay b).state = .running
    let shown := showReq (patchAt j).channel (patchAt j).level
    let darks := bareReq .dark .restart
    ∃ t, exec (.overtimeExpiry b) s = .next t ∧ (t.bay b).overtimes = min ((s.bay b).overtimes + 1) 65535 ∧
      (t.bay b).settleTimer = none ∧ (t.bay b).entry = none ∧ RowReturned b s t ∧
      ((s.bay b).entry.isSome = true → EngineFreed b s t) ∧
      (j.overtime < 2 → SameCore (s.bay b) (t.bay b) ∧ (t.bay b).job = some { j with overtime := j.overtime + 1 } ∧
        ((∀ w ∈ s.gov.queue, w.bay ≠ b) → AdmissionAsked b g s t) ∧
        (unsent → (s.gov.queue ≠ [] ∨ s.now < earliestGrant g s.link.params b s.now) →
          (t.port b).queue = p.queue.filter (fun r => !r.isShow) ∧ (t.port b).outstanding = p.outstanding) ∧
        (¬ unsent → (s.bay b).showPending = false → p.outstanding.isSome = true →
          (t.port b).queue = p.queue ++ [darks] ∧
          (t.port b).outstanding = (if p.outIs PortReq.isShow then p.outstanding.map Outstanding.orphaned else p.outstanding) ∧
          ((∀ w ∈ s.gov.queue, w.bay ≠ b) → ((t.bay b).showPending = true ↔ atOnce))) ∧
        (¬ unsent → (s.bay b).showPending = false → p.free → SentNow b darks s t) ∧
        (unsent → atOnce → p.linkAlive = true → p.outstanding.isSome = true → (∀ r, p.outstanding.map Outstanding.req = some r →
            restartDark r = false) → (∀ r ∈ p.queue, restartDark r = false) →
          (t.port b).queue = p.queue.filter (fun r => !r.isShow) ++ [shown])) ∧
      (2 ≤ j.overtime → (p.Settled → FaultTaken b .driveOvertime 0 s t) ∧ (∀ x ∈ t.gov.held, x.bay ≠ b) ∧
        (unsent → FaultCleansUp b p.openSection { p with queue := p.queue.filter (fun r => !r.isShow) } s t) ∧
        (¬ unsent → (s.bay b).showPending = false → p.outstanding.isSome = true →
          FaultCleansUp b p.openSection { p with queue := p.queue ++ [darks] } s t) ∧
        (¬ unsent → (s.bay b).showPending = false → p.free →
          FaultCleansUp b p.openSection
            { p with outstanding := some { req := darks, deadline := s.now + darks.bytes.length * 200 + ms 250 } } s t))

/-- Grants 10,000 ms old leave the history, and nothing else of the governor changes; a warm-up that has run its time makes its
probe WARM and lets an idle engine choose, the oldest entry whose probe is WARM, and send its probe a request, whose timeout starts
when its last byte has left, log entry 6 (R72, R77 to R80, R83, R85, R87). -/
def Obligations.HistoryIsTrimmedAndProbesWarm : Prop :=
  ∀ s : State,
    exec .grantHistoryExpiry s = .next (s.setGov { s.gov with
      history := s.gov.history.filter (fun g => decide (s.now < g.time + ms 10000)) }) ∧
    ∀ (b : Bay) (due : Nat), (s.probe b).warm = .warming due → due ≤ s.now →
      ∃ t, exec (.warmUpExpiry b) s = .next t ∧ (t.probe b).warm = .warm ∧ t.bays = s.bays ∧
        t.engine.queue = s.engine.queue ∧
        ((s.engine.current.isSome = true ∨ s.engine.queue = []) → t = s.setProbe b { s.probe b with warm := .warm }) ∧
        (s.engine.current = none → EngineChose s.engine.queue (s.setProbe b { s.probe b with warm := .warm }) t)

/-- Deliveries of a probe: a frame that does not open or parse, and what does not answer the outstanding request, is discarded; a
reference takes the new factor and begins the exposure loop, or faults with PROBE_DRIFT; an exposure frame steps down when
saturated, up when faint, and otherwise begins sampling; the last accepted sample writes the sheet row, counts the capture and lets
the bay send DARK and the engine choose its next entry; a fourth discarded sample faults with CAPTURE_QUALITY; each fault cleans its
bay up; a capture that goes on sends the probe its next FRAME REQUEST at the step then in force, seeded from the class where the loop
begins (R78, R80, R81, R83, R85 to R89, R91, R93, R25, R26). That a FRAME with a zone status R190 does not name and a REFERENCE of
another form do not parse is the model's reading, log entry 21; when a request's timeout starts is log entry 6. -/
def Obligations.DeliveriesOfAProbe : Prop :=
  ∀ (b : Bay) (frame : List Byte) (s : State),
    let cleaned (t : State) := FaultCleansUp b (s.port b).openSection (s.port b) s t ∧ EngineFreed b s t
    ((s.probe b).outstanding = none ∨ s.engine.current = none → exec (.probeMessageReceived b frame) s = .next s) ∧
    (openFrame 60 1752 frame = none → exec (.probeMessageReceived b frame) s = .next s) ∧
    (∀ payload, openFrame 60 1752 frame = some payload → parseDelivery payload = none →
      exec (.probeMessageReceived b frame) s = .next s) ∧
    ∀ o c d, (s.probe b).outstanding = some o → s.engine.current = some c → c.entry.bay = b →
      (openFrame 60 1752 frame).bind parseDelivery = some d →
      let asked (p : Probe) (t : State) := FrameAsked b p c.entry.cols c.entry.rows s t
      (answersProbe o d = false → exec (.probeMessageReceived b frame) s = .next s) ∧
      (answersProbe o d = true →
        (∀ n measured nominal, d = .reference n measured nominal → c.phase = .referencing →
          (∀ factor, measured ≠ 0 → factor = (2 * (1024 * nominal) + measured) / (2 * measured) → 922 ≤ factor →
            factor ≤ 1126 →
            ∃ t, exec (.probeMessageReceived b frame) s = .next t ∧ (t.probe b).factor = factor ∧ (t.probe b).count = 0 ∧
              (t.probe b).fault = false ∧ ExposureBegun c.entry { s.probe b with factor := factor, count := 0, fault := false } s t) ∧
          (measured = 0 ∨ (2 * (1024 * nominal) + measured) / (2 * measured) < 922 ∨
              1126 < (2 * (1024 * nominal) + measured) / (2 * measured) →
            (s.bay b).entry = some c.entry.number →
            ∃ t, exec (.probeMessageReceived b frame) s = .next t ∧ FaultTaken b .probeDrift 0 s t ∧ cleaned t ∧
              (t.probe b).fault = true ∧ (t.probe b).factor = (s.probe b).factor ∧ (t.probe b).count = (s.probe b).count)) ∧
        (∀ n step peak sat valid zones, d = .frame n step peak sat valid zones → c.phase = .exposing →
          (sat = 0 → 250 ≤ peak →
            ∃ t, exec (.probeMessageReceived b frame) s = .next t ∧ (t.probe b).step = (s.probe b).step ∧
              t.engine.current = some { c with phase := .sampling, accepted := [], discarded := 0 } ∧ t.bays = s.bays ∧
              asked (s.probe b) t) ∧
          (∀ next, (0 < sat ∧ next + 1 = (s.probe b).step ∧ 1 ≤ next) ∨
              (sat = 0 ∧ peak < 250 ∧ next = (s.probe b).step + 1 ∧ next ≤ 12) →
            (c.exposures < 6 →
              ∃ t, exec (.probeMessageReceived b frame) s = .next t ∧ (t.probe b).step = next ∧
                t.engine.current = some { c with exposures := c.exposures + 1 } ∧ asked { s.probe b with step := next } t ∧
                t.bay b = { s.bay b with adjustments := min ((s.bay b).adjustments + 1) 65535 }) ∧
            (6 ≤ c.exposures → (s.bay b).entry = some c.entry.number →
              ∃ t, exec (.probeMessageReceived b frame) s = .next t ∧ (t.probe b).step = next ∧
                FaultTaken b .captureExposure 0 s t ∧ cleaned t)) ∧
          ((0 < sat ∧ (s.probe b).step ≤ 1) ∨ (sat = 0 ∧ peak < 250 ∧ 12 ≤ (s.probe b).step) →
            (s.bay b).entry = some c.entry.number →
            ∃ t, exec (.probeMessageReceived b frame) s = .next t ∧ FaultTaken b .captureExposure 0 s t ∧ cleaned t)) ∧
        (∀ n step peak sat valid zones, d = .frame n step peak sat valid zones → c.phase = .sampling →
          (c.entry.cols * c.entry.rows * 19 ≤ valid * 20 →
            (c.accepted.length + 1 < c.entry.samples →
              ∃ t, exec (.probeMessageReceived b frame) s = .next t ∧
                t.engine.current = some { c with accepted := c.accepted ++ [zones] } ∧ t.bays = s.bays ∧
                asked (s.probe b) t) ∧
            (c.entry.samples ≤ c.accepted.length + 1 → c.entry.row < 15 → (s.bay b).entry = some c.entry.number →
              ∃ t, exec (.probeMessageReceived b frame) s = .next t ∧
                (t.area b).row c.entry.row =
                  some (formRow { c with accepted := c.accepted ++ [zones] } (s.probe b).factor (jobMask (s.bay b))) ∧
                (t.probe b).count = min ((s.probe b).count + 1) 255 ∧ (∀ x ∈ t.engine.queue, x.bay ≠ b) ∧
                (∀ h ∈ t.gov.held, h.bay ≠ b) ∧ SameCore (s.bay b) (t.bay b) ∧ (t.bay b).entry = none ∧
                EngineChose (s.engine.queue.filter (fun x => decide (x.bay ≠ b))) s t ∧
                ((s.port b).free → SentNow b (bareReq .dark .work) s t))) ∧
          (valid * 20 < c.entry.cols * c.entry.rows * 19 →
            (c.discarded < 3 →
              ∃ t, exec (.probeMessageReceived b frame) s = .next t ∧
                t.engine.current = some { c with discarded := c.discarded + 1 } ∧ asked (s.probe b) t ∧
                t.bay b = { s.bay b with discarded := min ((s.bay b).discarded + 1) 65535 }) ∧
            (3 ≤ c.discarded → (s.bay b).entry = some c.entry.number →
              ∃ t, exec (.probeMessageReceived b frame) s = .next t ∧ FaultTaken b .captureQuality 0 s t ∧ cleaned t ∧
                (t.bay b).discarded = min ((s.bay b).discarded + 1) 65535))))

/-- A solve that ends while its bay is RUNNING in SOLVE writes its result as a SOLVED frame; rejected, it ends the job
REJECT_PANEL; accepted, TRANSFER begins at section 0, the pass counter raised after a RESOLVE. A bay elsewhere drops the result
(R14, R104, R105, R121). -/
def Obligations.ASolveEndsInTransferOrRejection : Prop :=
  ∀ (b : Bay) (k : SolveKind) (s : State), s.solve b = some k →
    ((∀ j, ¬ s.worksOn b .solve j) → exec (.solveDone b) s = .next (s.setSolve b none)) ∧
    (∀ j, s.worksOn b .solve j →
      let r := runSolve k (s.area b) j.params
      ∃ t, exec (.solveDone b) s = .next t ∧ t.solve b = none ∧ (t.area b).rows = (s.area b).rows ∧
        (t.area b).frame.map MapFrame.sections = some r.sections ∧
        (∀ d, r.reject = some d →
          (t.area b).frame = some { state := .solved, cols := r.cols, rows := r.rows, sections := r.sections } ∧
          JobEnded b j .rejectPanel s t ∧ Noticed (.jobDone b .rejectPanel (s.bay b).serial .solve j.pass d) s t) ∧
        (r.reject = none →
          let pass := match k with
            | .first => j.pass
            | .resolve => j.pass + 1
          (t.bay b).state = .running ∧ (t.bay b).job = some { j with stage := .transfer, pass := pass } ∧
          (t.seq b).phase = .opening ∧ (t.seq b).sec = 0 ∧ (∀ i, get12 (t.seq b).rewrites i = 0) ∧
          Noticed (.stage b .transfer pass) s t ∧
          ((s.port b).free → SentNow b (openReq 0) s t ∧ (t.port b).openSection = some 0 ∧
            (t.area b).frame = some { state := .writing, cols := r.cols, rows := r.rows, sections := r.sections })))

/-! ## Arithmetic of the governor, the capture engine and the solver -/

/-- The earliest instant of R66 is the first at which the three conditions of R65 hold, for any history in the order the
governor keeps it. -/
def Obligations.TheEarliestInstantMeetsTheConditions : Prop :=
  ∀ (g : Governor) (p : Params) (b : Bay) (now t : Nat), GovOk now g → now ≤ t →
    (earliestGrant g p b now ≤ t ↔
      (g.history.filter (fun x => decide (t < x.time + ms p.grantWindow))).length < 4 ∧
      (∀ l, (if railOf b = .railA then g.lastA else g.lastB) = some l → l + ms p.sameRail ≤ t) ∧
      (∀ l, (if railOf b = .railA then g.lastB else g.lastA) = some l → l + ms p.crossRail ≤ t))

/-- The readings of a finished capture: each zone's luminance is the sum over its resolved and saturated samples times the factor,
divided once and rounded, at most 65,535; its flag is the first of MASKED, SATURATED, DARK, VALID that applies (R90, R102). -/
def Obligations.ReadingsAreFormedAndFlagged : Prop :=
  ∀ (c : Current) (factor : Nat) (mask : List Nat),
    let seen (z : Nat) := (c.accepted.filterMap (fun f => f[z]?)).filter (fun x => decide (x.status ≠ .unresolved))
    let lum (z : Nat) :=
      if seen z = [] then 0
      else min 65535 ((2 * (((seen z).map ZoneEntry.lum).sum * factor) + 1024 * (seen z).length) /
        (2 * (1024 * (seen z).length)))
    let centre := lum (c.entry.rows / 2 * c.entry.cols + c.entry.cols / 2)
    (formRow c factor mask).cols = c.entry.cols ∧ (formRow c factor mask).rows = c.entry.rows ∧
    (formRow c factor mask).readings.length = c.entry.cols * c.entry.rows ∧ (formRow c factor mask).uniformity = none ∧
    (1 ≤ c.entry.cols → 1 ≤ c.entry.rows → ∀ z, z < c.entry.cols * c.entry.rows →
      (formRow c factor mask).readings[z]? = some
        { lum := lum z,
          flag := if z ∈ mask then .masked else if (seen z).any (fun x => decide (x.status = .saturated)) then .saturated
            else if lum z * 20 < centre then .dark else .valid })

/-- The cell a FIRST solve gives a zone by its flag, and a RESOLVE by its flag and old gain, `t` being the target in thousandths,
and the measured uniformity of a verify row; a saturated zone of luminance 0 has no stated quotient, and its gain is within 614 to
1024 whatever the free value of log entry 16 (R107, R110, R112). -/
def Obligations.CellsAndUniformityOfTheSolver : Prop :=
  ∀ (t lum : Nat) (old : Cell) (rs : List Reading),
    let g := (2 * (1024 * t) + 1000 * lum) / (2 * (1000 * lum))
    let again := (2 * (old.gain * t) + 1000 * lum) / (2 * (1000 * lum))
    resolveCell t old { lum := lum, flag := .masked } = { cell := { gain := 1024, masked := true }, below := false, beyond := false } ∧
    (∀ flag, flag = .valid ∨ flag = .dark →
      resolveCell t old { lum := 0, flag := flag } = { cell := { gain := 1024, masked := false }, below := true, beyond := false } ∧
      (lum ≠ 0 → resolveCell t old { lum := lum, flag := flag } =
        { cell := { gain := min 1024 (max 614 again), masked := false }, below := decide (1000 * lum < t),
          beyond := decide (again < 614) })) ∧
    (lum ≠ 0 → resolveCell t old { lum := lum, flag := .saturated } =
      { cell := { gain := min 1024 (max 614 again), masked := false }, below := false, beyond := true }) ∧
    (∀ x, x = resolveCell t old { lum := 0, flag := .saturated } →
      614 ≤ x.cell.gain ∧ x.cell.gain ≤ 1024 ∧ x.cell.masked = false ∧ x.below = false ∧ x.beyond = true) ∧
    firstCell t { lum := lum, flag := .masked } = { cell := { gain := 1024, masked := true }, below := false, beyond := false } ∧
    (∀ flag, flag = .valid ∨ flag = .dark →
      (1000 * lum ≤ t → firstCell t { lum := lum, flag := flag } =
        { cell := { gain := 1024, masked := false }, below := decide (1000 * lum < t), beyond := false }) ∧
      (t < 1000 * lum → firstCell t { lum := lum, flag := flag } =
        { cell := { gain := if g < 614 then 614 else g, masked := false }, below := false, beyond := decide (g < 614) })) ∧
    (lum ≠ 0 → firstCell t { lum := lum, flag := .saturated } =
      { cell := { gain := min 1024 (max 614 g), masked := false }, below := false, beyond := true }) ∧
    (∀ x, x = firstCell t { lum := 0, flag := .saturated } →
      614 ≤ x.cell.gain ∧ x.cell.gain ≤ 1024 ∧ x.cell.masked = false ∧ x.below = false ∧ x.beyond = true) ∧
    (∀ valid, valid = (rs.filter (fun r => decide (r.flag = .valid))).map Reading.lum →
      ((∃ r ∈ rs, r.flag = .dark) → measuredUniformity rs = 0) ∧
      ((∀ r ∈ rs, r.flag ≠ .dark) → (∀ x ∈ valid, x = 0) → measuredUniformity rs = 0) ∧
      (∀ lo hi, (∀ r ∈ rs, r.flag ≠ .dark) → lo ∈ valid → hi ∈ valid → (∀ x ∈ valid, lo ≤ x ∧ x ≤ hi) → 0 < hi →
        measuredUniformity rs = 1000 * lo / hi))

/-- The two solves. Each section's target is the greater of its row's least VALID luminance and the floor, or the floor with none
VALID; its cells, counts and summary follow the row zone by zone, a FIRST solve with the predicted uniformity of its VALID zones,
a RESOLVE over the section's present cells with the verify row of its channel. A FIRST solve is rejected by the first section that
fails, with 1 for a DARK zone, else 2 for counts above the tolerance, else 3 for a predicted uniformity below the target; a
RESOLVE with 2 when a section's counts exceed the tolerance (R105, R106, R108, R109, R111 to R113). -/
def Obligations.SolvesFollowTheirSections : Prop :=
  ∀ (a : Area) (p : JobParams),
    let target (r : Row) :=
      let floor := (r.readings.getD (r.rows / 2 * r.cols + r.cols / 2) { lum := 0, flag := .valid }).lum * p.floorRatio
      match ((r.readings.filter (fun x => decide (x.flag = .valid))).map Reading.lum).min? with
      | none => floor
      | some m => max (1000 * m) floor
    let tooMany (c : Section) := p.tolerance < c.summary.belowFloor + c.summary.beyondRange
    (let n := 3 * p.levels.length
     let res := runSolve .first a p
     res.sections.length = n ∧
     (∀ i r c, i < n → a.row i = some r → res.sections[i]? = some c →
       let cells := r.readings.map (firstCell (target r))
       let lit := (r.readings.filter (fun x => decide (x.flag = .valid))).map
         (fun x => x.lum * (firstCell (target r) x).cell.gain)
       c = { cells := cells.map CellResult.cell, outcome := .notSent,
             summary := { kind := .first, target := (2 * target r + 1000) / 2000, belowFloor := cells.countP CellResult.below,
                          beyondRange := cells.countP CellResult.beyond,
                          predicted := some (match lit.min?, lit.max? with
                            | some lo, some hi => if hi = 0 then 0 else 1000 * lo / hi
                            | _, _ => 0) } }) ∧
     ((∀ i, i < n → (a.row i).isSome = true) →
       let verdict (i : Nat) : Option Nat := match a.row i, res.sections[i]? with
         | some r, some c =>
           if r.readings.any (fun x => decide (x.flag = .dark)) then some 1
           else if tooMany c then some 2
           else if c.summary.predicted.getD 0 < p.target then some 3
           else none
         | _, _ => none
       ∀ d, res.reject = some d ↔ ∃ i, i < n ∧ verdict i = some d ∧ ∀ k, k < i → verdict k = none)) ∧
    ∀ f, a.frame = some f →
      let res := runSolve .resolve a p
      res.sections.length = f.sections.length ∧
      (∀ i r old c, a.row (12 + i % 3) = some r → f.sections[i]? = some old → res.sections[i]? = some c →
        let cells := (old.cells.zip r.readings).map (fun x => resolveCell (target r) x.1 x.2)
        c = { cells := cells.map CellResult.cell, outcome := .notSent,
              summary := { kind := .resolve, target := (2 * target r + 1000) / 2000,
                           belowFloor := cells.countP CellResult.below, beyondRange := cells.countP CellResult.beyond,
                           predicted := none } }) ∧
      ((∃ c ∈ res.sections, tooMany c) → res.reject = some 2) ∧ ((∀ c ∈ res.sections, ¬ tooMany c) → res.reject = none)

/-! ## What every step keeps -/

/-- Every step keeps the bounds of the line link: at most 4 frames and 32 occupied entries, counts stopping at 65,535, parameters
in range (R169, R175, R180). -/
def Obligations.EveryStepKeepsTheLineLink : Prop :=
  ∀ s t : State, step s = .next t → LinkOk s.link → LinkOk t.link

/-- Every step keeps, at each bay, the counters' limit, the fault list's limit and what FAULTED requires, and on its port that
clocks, hold and open section stand empty while link-alive is false (R1, R21, R22, R29, R48, R55). That no KEEP is due while
link-alive is false is the model's choice, log entry 43. -/
def Obligations.EveryStepKeepsBaysAndPorts : Prop :=
  ∀ s t : State, step s = .next t →
    ((∀ b, BayOk (s.bay b)) → ∀ b, BayOk (t.bay b)) ∧ ((∀ b, PortOk (s.port b)) → ∀ b, PortOk (t.port b))

/-- Every step keeps what waits at the ports: one with nothing outstanding has nothing it could send, so it sends what is placed on
it at once (R43, R53); behind the outstanding request of a FAULTED bay wait only WAKE, CLOSE SECTION and DARK, and no SHOW waits for
the DARK of a revocation (R25, R26). That no HELLO waits there is the model's choice, log entry 13: R25 does not list a HELLO still
queued; that no forwarded request does, at a fault that is no KEEP's refusal, is its choice, log entry 47. -/
def Obligations.EveryStepKeepsWhatWaitsAtThePorts : Prop :=
  ∀ s t : State, step s = .next t →
    ((∀ b, (s.port b).Settled) → ∀ b, (t.port b).Settled) ∧
    ((∀ b, FaultedQueueOk (s.bay b) (s.port b)) → ∀ b, FaultedQueueOk (t.bay b) (t.port b))

/-- Every step keeps the key stock: at most 2,048 records and 262,144 blob bytes, load sequences rising and below the next, key
IDs distinct, blobs present in AVAILABLE, RESERVED and SENDING alone (R135, R137 to R139). -/
def Obligations.EveryStepKeepsTheStock : Prop :=
  ∀ s t : State, step s = .next t → StockOk s.stock → StockOk t.stock

/-- Every step keeps every LOADED slot and every probe record in range, and the grant history newest first and not after the
present (R62, R67, R76, R157, R158). -/
def Obligations.EveryStepKeepsTableProbesAndGrants : Prop :=
  ∀ s t : State, step s = .next t →
    (TableOk s.table → (∀ b, ProbeOk (s.probe b)) → TableOk t.table ∧ ∀ b, ProbeOk (t.probe b)) ∧
    (GovOk s.now s.gov → GovOk t.now t.gov)

/-- Every step keeps each bay at one claim of a kind: one admission asked for or held, one capture entry, one key reserved, sending
or waited for (R64, R82, R143, R144). -/
def Obligations.EveryStepKeepsOneClaimOfAKind : Prop :=
  ∀ s t : State, step s = .next t → StockOk s.stock → OneClaimEach s → OneClaimEach t

/-- Every step keeps each slot's reference count equal to the number of open jobs that reference it, and jobs open exactly in
RUNNING and in FAULTED from RUNNING: a job that opens raises the counts, one that closes lowers them (R1, R19, R159). -/
def Obligations.EveryStepKeepsTheReferenceCounts : Prop :=
  ∀ s t : State, step s = .next t → RefsOk s → RefsOk t

/-- Over every step a key record keeps its key ID; a SENDING record stays SENDING or becomes BOUND or VOIDED, and a BOUND or VOIDED
record keeps its serial and reason. Nothing is said here of AVAILABLE and RESERVED records (R136). -/
def Obligations.ASendingOrSpentKeyNeverGoesBack : Prop :=
  ∀ s t : State, step s = .next t → StockOk s.stock →
    ∀ r ∈ s.stock.records, ∀ r' ∈ t.stock.records, r'.loadSeq = r.loadSeq →
      r'.keyId = r.keyId ∧ r.state.reaches r'.state

/-- The state after reset meets every condition above. -/
def Obligations.ResetMeetsEveryCondition : Prop :=
  LinkOk State.reset.link ∧ (∀ b, BayOk (State.reset.bay b)) ∧ (∀ b, PortOk (State.reset.port b)) ∧
  StockOk State.reset.stock ∧ TableOk State.reset.table ∧ (∀ b, ProbeOk (State.reset.probe b)) ∧
  GovOk State.reset.now State.reset.gov ∧ OneClaimEach State.reset ∧ RefsOk State.reset ∧
  ∀ b, (State.reset.port b).Settled ∧ FaultedQueueOk (State.reset.bay b) (State.reset.port b)

/-- Frame. A bay command keeps the line link but for messages placed after those already placed, the key IDs and load sequences,
every slot's contents and the time; and at every bay it does not act at, the state, from-state, faults and identity, the job but
for its current key, the attach timer, the poller, link-alive, the solve, the sheet rows, and, but for what a request already
queued there may change when it is sent, the map frame, the sequencer and the tunnel record. -/
def Obligations.ABayCommandLeavesTheRestAlone : Prop :=
  ∀ (i : Instr) (s t : State), isBayCommand i = true → exec i s = .next t →
    SameLine s.link t.link ∧ SameKeys s.stock t.stock ∧ SameSlots s.table t.table ∧ t.now = s.now ∧
    ∀ b : Bay, actsAt i ≠ some b →
      SameCore (s.bay b) (t.bay b) ∧ (t.bay b).job.map Job.keyless = (s.bay b).job.map Job.keyless ∧
      (t.bay b).attachTimer = (s.bay b).attachTimer ∧ t.poller b = s.poller b ∧
      (t.port b).linkAlive = (s.port b).linkAlive ∧ t.solve b = s.solve b ∧ (t.area b).rows = (s.area b).rows ∧
      ((∀ r ∈ (s.port b).queue, ∀ id, r.what ≠ .openSection id) → t.area b = s.area b ∧ t.seq b = s.seq b) ∧
      ((∀ r ∈ (s.port b).queue, r.isForwarded = false) → (t.port b).tunnel = (s.port b).tunnel)
end

