-- ==== Sys2Proof/Laws/State.lean ====
section
/-! SUPPORT. What each update of the state leaves and changes: one lemma per field and update, so that no proof unfolds a
record update. -/

namespace Sys2Proof.Machine

open Sys2Proof

/-! ## Vectors -/

@[simp] theorem updAt_get_self {α : Type} {n : Nat} (v : Vector α n) (i : Fin n) (x : α) : (updAt v i x).get i = x := by
  simp [updAt, Vector.get_eq_getElem]

@[simp] theorem updAt_get_ne {α : Type} {n : Nat} (v : Vector α n) {i j : Fin n} (x : α) (h : j ≠ i) :
    (updAt v i x).get j = v.get j := by
  have h' : ¬ i.val = j.val := fun e => h (Fin.ext e.symm)
  simp [updAt, Vector.get_eq_getElem, h']

@[simp] theorem updAt_updAt {α : Type} {n : Nat} (v : Vector α n) (i : Fin n) (x y : α) :
    updAt (updAt v i x) i y = updAt v i y := by
  apply Vector.ext
  intro j hj
  simp only [updAt, Vector.getElem_set]
  split <;> rfl

@[simp] theorem updAt_self {α : Type} {n : Nat} (v : Vector α n) (i : Fin n) : updAt v i (v.get i) = v := by
  apply Vector.ext
  intro j hj
  simp only [updAt, Vector.getElem_set, Vector.get_eq_getElem]
  split
  · next e => subst e; rfl
  · rfl

theorem updAt_get {α : Type} {n : Nat} (v : Vector α n) (i j : Fin n) (x : α) :
    (updAt v i x).get j = if j = i then x else v.get j := by
  split
  · next h => subst h; simp
  · next h => simp [h]

@[simp] theorem replicate_get {α : Type} {n : Nat} (x : α) (i : Fin n) : (Vector.replicate n x).get i = x := by
  simp [Vector.get_eq_getElem]

@[simp] theorem ofFn_get {α : Type} {n : Nat} (f : Fin n → α) (i : Fin n) : (Vector.ofFn f).get i = f i := by
  simp [Vector.get_eq_getElem]

/-! ## setLink -/

@[simp] theorem setLink_pending (s : State) (l : Link) : (s.setLink l).pending = s.pending := rfl
@[simp] theorem setLink_now (s : State) (l : Link) : (s.setLink l).now = s.now := rfl
@[simp] theorem setLink_link (s : State) (l : Link) : (s.setLink l).link = l := rfl
@[simp] theorem setLink_bays (s : State) (l : Link) : (s.setLink l).bays = s.bays := rfl
@[simp] theorem setLink_pollers (s : State) (l : Link) : (s.setLink l).pollers = s.pollers := rfl
@[simp] theorem setLink_ports (s : State) (l : Link) : (s.setLink l).ports = s.ports := rfl
@[simp] theorem setLink_seqs (s : State) (l : Link) : (s.setLink l).seqs = s.seqs := rfl
@[simp] theorem setLink_xfers (s : State) (l : Link) : (s.setLink l).xfers = s.xfers := rfl
@[simp] theorem setLink_gov (s : State) (l : Link) : (s.setLink l).gov = s.gov := rfl
@[simp] theorem setLink_engine (s : State) (l : Link) : (s.setLink l).engine = s.engine := rfl
@[simp] theorem setLink_areas (s : State) (l : Link) : (s.setLink l).areas = s.areas := rfl
@[simp] theorem setLink_solves (s : State) (l : Link) : (s.setLink l).solves = s.solves := rfl
@[simp] theorem setLink_stock (s : State) (l : Link) : (s.setLink l).stock = s.stock := rfl
@[simp] theorem setLink_table (s : State) (l : Link) : (s.setLink l).table = s.table := rfl
@[simp] theorem setLink_out (s : State) (l : Link) : (s.setLink l).out = s.out := rfl
@[simp] theorem setLink_bay (s : State) (l : Link) (c : Bay) : (s.setLink l).bay c = s.bay c := rfl
@[simp] theorem setLink_poller (s : State) (l : Link) (c : Bay) : (s.setLink l).poller c = s.poller c := rfl
@[simp] theorem setLink_port (s : State) (l : Link) (c : Bay) : (s.setLink l).port c = s.port c := rfl
@[simp] theorem setLink_seq (s : State) (l : Link) (c : Bay) : (s.setLink l).seq c = s.seq c := rfl
@[simp] theorem setLink_xfer (s : State) (l : Link) (c : Bay) : (s.setLink l).xfer c = s.xfer c := rfl
@[simp] theorem setLink_area (s : State) (l : Link) (c : Bay) : (s.setLink l).area c = s.area c := rfl
@[simp] theorem setLink_solve (s : State) (l : Link) (c : Bay) : (s.setLink l).solve c = s.solve c := rfl
@[simp] theorem setLink_probe (s : State) (l : Link) (c : Bay) : (s.setLink l).probe c = s.probe c := rfl

/-! ## setGov -/

@[simp] theorem setGov_pending (s : State) (g : Governor) : (s.setGov g).pending = s.pending := rfl
@[simp] theorem setGov_now (s : State) (g : Governor) : (s.setGov g).now = s.now := rfl
@[simp] theorem setGov_link (s : State) (g : Governor) : (s.setGov g).link = s.link := rfl
@[simp] theorem setGov_bays (s : State) (g : Governor) : (s.setGov g).bays = s.bays := rfl
@[simp] theorem setGov_pollers (s : State) (g : Governor) : (s.setGov g).pollers = s.pollers := rfl
@[simp] theorem setGov_ports (s : State) (g : Governor) : (s.setGov g).ports = s.ports := rfl
@[simp] theorem setGov_seqs (s : State) (g : Governor) : (s.setGov g).seqs = s.seqs := rfl
@[simp] theorem setGov_xfers (s : State) (g : Governor) : (s.setGov g).xfers = s.xfers := rfl
@[simp] theorem setGov_gov (s : State) (g : Governor) : (s.setGov g).gov = g := rfl
@[simp] theorem setGov_engine (s : State) (g : Governor) : (s.setGov g).engine = s.engine := rfl
@[simp] theorem setGov_areas (s : State) (g : Governor) : (s.setGov g).areas = s.areas := rfl
@[simp] theorem setGov_solves (s : State) (g : Governor) : (s.setGov g).solves = s.solves := rfl
@[simp] theorem setGov_stock (s : State) (g : Governor) : (s.setGov g).stock = s.stock := rfl
@[simp] theorem setGov_table (s : State) (g : Governor) : (s.setGov g).table = s.table := rfl
@[simp] theorem setGov_out (s : State) (g : Governor) : (s.setGov g).out = s.out := rfl
@[simp] theorem setGov_bay (s : State) (g : Governor) (c : Bay) : (s.setGov g).bay c = s.bay c := rfl
@[simp] theorem setGov_poller (s : State) (g : Governor) (c : Bay) : (s.setGov g).poller c = s.poller c := rfl
@[simp] theorem setGov_port (s : State) (g : Governor) (c : Bay) : (s.setGov g).port c = s.port c := rfl
@[simp] theorem setGov_seq (s : State) (g : Governor) (c : Bay) : (s.setGov g).seq c = s.seq c := rfl
@[simp] theorem setGov_xfer (s : State) (g : Governor) (c : Bay) : (s.setGov g).xfer c = s.xfer c := rfl
@[simp] theorem setGov_area (s : State) (g : Governor) (c : Bay) : (s.setGov g).area c = s.area c := rfl
@[simp] theorem setGov_solve (s : State) (g : Governor) (c : Bay) : (s.setGov g).solve c = s.solve c := rfl
@[simp] theorem setGov_probe (s : State) (g : Governor) (c : Bay) : (s.setGov g).probe c = s.probe c := rfl

/-! ## setEngine -/

@[simp] theorem setEngine_pending (s : State) (e : Engine) : (s.setEngine e).pending = s.pending := rfl
@[simp] theorem setEngine_now (s : State) (e : Engine) : (s.setEngine e).now = s.now := rfl
@[simp] theorem setEngine_link (s : State) (e : Engine) : (s.setEngine e).link = s.link := rfl
@[simp] theorem setEngine_bays (s : State) (e : Engine) : (s.setEngine e).bays = s.bays := rfl
@[simp] theorem setEngine_pollers (s : State) (e : Engine) : (s.setEngine e).pollers = s.pollers := rfl
@[simp] theorem setEngine_ports (s : State) (e : Engine) : (s.setEngine e).ports = s.ports := rfl
@[simp] theorem setEngine_seqs (s : State) (e : Engine) : (s.setEngine e).seqs = s.seqs := rfl
@[simp] theorem setEngine_xfers (s : State) (e : Engine) : (s.setEngine e).xfers = s.xfers := rfl
@[simp] theorem setEngine_gov (s : State) (e : Engine) : (s.setEngine e).gov = s.gov := rfl
@[simp] theorem setEngine_engine (s : State) (e : Engine) : (s.setEngine e).engine = e := rfl
@[simp] theorem setEngine_areas (s : State) (e : Engine) : (s.setEngine e).areas = s.areas := rfl
@[simp] theorem setEngine_solves (s : State) (e : Engine) : (s.setEngine e).solves = s.solves := rfl
@[simp] theorem setEngine_stock (s : State) (e : Engine) : (s.setEngine e).stock = s.stock := rfl
@[simp] theorem setEngine_table (s : State) (e : Engine) : (s.setEngine e).table = s.table := rfl
@[simp] theorem setEngine_out (s : State) (e : Engine) : (s.setEngine e).out = s.out := rfl
@[simp] theorem setEngine_bay (s : State) (e : Engine) (c : Bay) : (s.setEngine e).bay c = s.bay c := rfl
@[simp] theorem setEngine_poller (s : State) (e : Engine) (c : Bay) : (s.setEngine e).poller c = s.poller c := rfl
@[simp] theorem setEngine_port (s : State) (e : Engine) (c : Bay) : (s.setEngine e).port c = s.port c := rfl
@[simp] theorem setEngine_seq (s : State) (e : Engine) (c : Bay) : (s.setEngine e).seq c = s.seq c := rfl
@[simp] theorem setEngine_xfer (s : State) (e : Engine) (c : Bay) : (s.setEngine e).xfer c = s.xfer c := rfl
@[simp] theorem setEngine_area (s : State) (e : Engine) (c : Bay) : (s.setEngine e).area c = s.area c := rfl
@[simp] theorem setEngine_solve (s : State) (e : Engine) (c : Bay) : (s.setEngine e).solve c = s.solve c := rfl
@[simp] theorem setEngine_probe (s : State) (e : Engine) (c : Bay) : (s.setEngine e).probe c = e.probes.get c := rfl

/-! ## setStock -/

@[simp] theorem setStock_pending (s : State) (k : Stock) : (s.setStock k).pending = s.pending := rfl
@[simp] theorem setStock_now (s : State) (k : Stock) : (s.setStock k).now = s.now := rfl
@[simp] theorem setStock_link (s : State) (k : Stock) : (s.setStock k).link = s.link := rfl
@[simp] theorem setStock_bays (s : State) (k : Stock) : (s.setStock k).bays = s.bays := rfl
@[simp] theorem setStock_pollers (s : State) (k : Stock) : (s.setStock k).pollers = s.pollers := rfl
@[simp] theorem setStock_ports (s : State) (k : Stock) : (s.setStock k).ports = s.ports := rfl
@[simp] theorem setStock_seqs (s : State) (k : Stock) : (s.setStock k).seqs = s.seqs := rfl
@[simp] theorem setStock_xfers (s : State) (k : Stock) : (s.setStock k).xfers = s.xfers := rfl
@[simp] theorem setStock_gov (s : State) (k : Stock) : (s.setStock k).gov = s.gov := rfl
@[simp] theorem setStock_engine (s : State) (k : Stock) : (s.setStock k).engine = s.engine := rfl
@[simp] theorem setStock_areas (s : State) (k : Stock) : (s.setStock k).areas = s.areas := rfl
@[simp] theorem setStock_solves (s : State) (k : Stock) : (s.setStock k).solves = s.solves := rfl
@[simp] theorem setStock_stock (s : State) (k : Stock) : (s.setStock k).stock = k := rfl
@[simp] theorem setStock_table (s : State) (k : Stock) : (s.setStock k).table = s.table := rfl
@[simp] theorem setStock_out (s : State) (k : Stock) : (s.setStock k).out = s.out := rfl
@[simp] theorem setStock_bay (s : State) (k : Stock) (c : Bay) : (s.setStock k).bay c = s.bay c := rfl
@[simp] theorem setStock_poller (s : State) (k : Stock) (c : Bay) : (s.setStock k).poller c = s.poller c := rfl
@[simp] theorem setStock_port (s : State) (k : Stock) (c : Bay) : (s.setStock k).port c = s.port c := rfl
@[simp] theorem setStock_seq (s : State) (k : Stock) (c : Bay) : (s.setStock k).seq c = s.seq c := rfl
@[simp] theorem setStock_xfer (s : State) (k : Stock) (c : Bay) : (s.setStock k).xfer c = s.xfer c := rfl
@[simp] theorem setStock_area (s : State) (k : Stock) (c : Bay) : (s.setStock k).area c = s.area c := rfl
@[simp] theorem setStock_solve (s : State) (k : Stock) (c : Bay) : (s.setStock k).solve c = s.solve c := rfl
@[simp] theorem setStock_probe (s : State) (k : Stock) (c : Bay) : (s.setStock k).probe c = s.probe c := rfl

/-! ## setTable -/

@[simp] theorem setTable_pending (s : State) (t : Table) : (s.setTable t).pending = s.pending := rfl
@[simp] theorem setTable_now (s : State) (t : Table) : (s.setTable t).now = s.now := rfl
@[simp] theorem setTable_link (s : State) (t : Table) : (s.setTable t).link = s.link := rfl
@[simp] theorem setTable_bays (s : State) (t : Table) : (s.setTable t).bays = s.bays := rfl
@[simp] theorem setTable_pollers (s : State) (t : Table) : (s.setTable t).pollers = s.pollers := rfl
@[simp] theorem setTable_ports (s : State) (t : Table) : (s.setTable t).ports = s.ports := rfl
@[simp] theorem setTable_seqs (s : State) (t : Table) : (s.setTable t).seqs = s.seqs := rfl
@[simp] theorem setTable_xfers (s : State) (t : Table) : (s.setTable t).xfers = s.xfers := rfl
@[simp] theorem setTable_gov (s : State) (t : Table) : (s.setTable t).gov = s.gov := rfl
@[simp] theorem setTable_engine (s : State) (t : Table) : (s.setTable t).engine = s.engine := rfl
@[simp] theorem setTable_areas (s : State) (t : Table) : (s.setTable t).areas = s.areas := rfl
@[simp] theorem setTable_solves (s : State) (t : Table) : (s.setTable t).solves = s.solves := rfl
@[simp] theorem setTable_stock (s : State) (t : Table) : (s.setTable t).stock = s.stock := rfl
@[simp] theorem setTable_table (s : State) (t : Table) : (s.setTable t).table = t := rfl
@[simp] theorem setTable_out (s : State) (t : Table) : (s.setTable t).out = s.out := rfl
@[simp] theorem setTable_bay (s : State) (t : Table) (c : Bay) : (s.setTable t).bay c = s.bay c := rfl
@[simp] theorem setTable_poller (s : State) (t : Table) (c : Bay) : (s.setTable t).poller c = s.poller c := rfl
@[simp] theorem setTable_port (s : State) (t : Table) (c : Bay) : (s.setTable t).port c = s.port c := rfl
@[simp] theorem setTable_seq (s : State) (t : Table) (c : Bay) : (s.setTable t).seq c = s.seq c := rfl
@[simp] theorem setTable_xfer (s : State) (t : Table) (c : Bay) : (s.setTable t).xfer c = s.xfer c := rfl
@[simp] theorem setTable_area (s : State) (t : Table) (c : Bay) : (s.setTable t).area c = s.area c := rfl
@[simp] theorem setTable_solve (s : State) (t : Table) (c : Bay) : (s.setTable t).solve c = s.solve c := rfl
@[simp] theorem setTable_probe (s : State) (t : Table) (c : Bay) : (s.setTable t).probe c = s.probe c := rfl

/-! ## setOut -/

@[simp] theorem setOut_pending (s : State) (o : LinesOut) : (s.setOut o).pending = s.pending := rfl
@[simp] theorem setOut_now (s : State) (o : LinesOut) : (s.setOut o).now = s.now := rfl
@[simp] theorem setOut_link (s : State) (o : LinesOut) : (s.setOut o).link = s.link := rfl
@[simp] theorem setOut_bays (s : State) (o : LinesOut) : (s.setOut o).bays = s.bays := rfl
@[simp] theorem setOut_pollers (s : State) (o : LinesOut) : (s.setOut o).pollers = s.pollers := rfl
@[simp] theorem setOut_ports (s : State) (o : LinesOut) : (s.setOut o).ports = s.ports := rfl
@[simp] theorem setOut_seqs (s : State) (o : LinesOut) : (s.setOut o).seqs = s.seqs := rfl
@[simp] theorem setOut_xfers (s : State) (o : LinesOut) : (s.setOut o).xfers = s.xfers := rfl
@[simp] theorem setOut_gov (s : State) (o : LinesOut) : (s.setOut o).gov = s.gov := rfl
@[simp] theorem setOut_engine (s : State) (o : LinesOut) : (s.setOut o).engine = s.engine := rfl
@[simp] theorem setOut_areas (s : State) (o : LinesOut) : (s.setOut o).areas = s.areas := rfl
@[simp] theorem setOut_solves (s : State) (o : LinesOut) : (s.setOut o).solves = s.solves := rfl
@[simp] theorem setOut_stock (s : State) (o : LinesOut) : (s.setOut o).stock = s.stock := rfl
@[simp] theorem setOut_table (s : State) (o : LinesOut) : (s.setOut o).table = s.table := rfl
@[simp] theorem setOut_out (s : State) (o : LinesOut) : (s.setOut o).out = o := rfl
@[simp] theorem setOut_bay (s : State) (o : LinesOut) (c : Bay) : (s.setOut o).bay c = s.bay c := rfl
@[simp] theorem setOut_poller (s : State) (o : LinesOut) (c : Bay) : (s.setOut o).poller c = s.poller c := rfl
@[simp] theorem setOut_port (s : State) (o : LinesOut) (c : Bay) : (s.setOut o).port c = s.port c := rfl
@[simp] theorem setOut_seq (s : State) (o : LinesOut) (c : Bay) : (s.setOut o).seq c = s.seq c := rfl
@[simp] theorem setOut_xfer (s : State) (o : LinesOut) (c : Bay) : (s.setOut o).xfer c = s.xfer c := rfl
@[simp] theorem setOut_area (s : State) (o : LinesOut) (c : Bay) : (s.setOut o).area c = s.area c := rfl
@[simp] theorem setOut_solve (s : State) (o : LinesOut) (c : Bay) : (s.setOut o).solve c = s.solve c := rfl
@[simp] theorem setOut_probe (s : State) (o : LinesOut) (c : Bay) : (s.setOut o).probe c = s.probe c := rfl

/-! ## setBay -/

@[simp] theorem setBay_pending (s : State) (b : Bay) (r : BayRec) : (s.setBay b r).pending = s.pending := rfl
@[simp] theorem setBay_now (s : State) (b : Bay) (r : BayRec) : (s.setBay b r).now = s.now := rfl
@[simp] theorem setBay_link (s : State) (b : Bay) (r : BayRec) : (s.setBay b r).link = s.link := rfl
@[simp] theorem setBay_bays (s : State) (b : Bay) (r : BayRec) : (s.setBay b r).bays = updAt s.bays b r := rfl
@[simp] theorem setBay_pollers (s : State) (b : Bay) (r : BayRec) : (s.setBay b r).pollers = s.pollers := rfl
@[simp] theorem setBay_ports (s : State) (b : Bay) (r : BayRec) : (s.setBay b r).ports = s.ports := rfl
@[simp] theorem setBay_seqs (s : State) (b : Bay) (r : BayRec) : (s.setBay b r).seqs = s.seqs := rfl
@[simp] theorem setBay_xfers (s : State) (b : Bay) (r : BayRec) : (s.setBay b r).xfers = s.xfers := rfl
@[simp] theorem setBay_gov (s : State) (b : Bay) (r : BayRec) : (s.setBay b r).gov = s.gov := rfl
@[simp] theorem setBay_engine (s : State) (b : Bay) (r : BayRec) : (s.setBay b r).engine = s.engine := rfl
@[simp] theorem setBay_areas (s : State) (b : Bay) (r : BayRec) : (s.setBay b r).areas = s.areas := rfl
@[simp] theorem setBay_solves (s : State) (b : Bay) (r : BayRec) : (s.setBay b r).solves = s.solves := rfl
@[simp] theorem setBay_stock (s : State) (b : Bay) (r : BayRec) : (s.setBay b r).stock = s.stock := rfl
@[simp] theorem setBay_table (s : State) (b : Bay) (r : BayRec) : (s.setBay b r).table = s.table := rfl
@[simp] theorem setBay_out (s : State) (b : Bay) (r : BayRec) : (s.setBay b r).out = s.out := rfl
@[simp] theorem setBay_poller (s : State) (b : Bay) (r : BayRec) (c : Bay) : (s.setBay b r).poller c = s.poller c := rfl
@[simp] theorem setBay_port (s : State) (b : Bay) (r : BayRec) (c : Bay) : (s.setBay b r).port c = s.port c := rfl
@[simp] theorem setBay_seq (s : State) (b : Bay) (r : BayRec) (c : Bay) : (s.setBay b r).seq c = s.seq c := rfl
@[simp] theorem setBay_xfer (s : State) (b : Bay) (r : BayRec) (c : Bay) : (s.setBay b r).xfer c = s.xfer c := rfl
@[simp] theorem setBay_area (s : State) (b : Bay) (r : BayRec) (c : Bay) : (s.setBay b r).area c = s.area c := rfl
@[simp] theorem setBay_solve (s : State) (b : Bay) (r : BayRec) (c : Bay) : (s.setBay b r).solve c = s.solve c := rfl
@[simp] theorem setBay_probe (s : State) (b : Bay) (r : BayRec) (c : Bay) : (s.setBay b r).probe c = s.probe c := rfl
@[simp] theorem setBay_bay_self (s : State) (b : Bay) (r : BayRec) : (s.setBay b r).bay b = r := by
  simp [State.bay]
@[simp] theorem setBay_bay_ne (s : State) {b c : Bay} (r : BayRec) (h : c ≠ b) : (s.setBay b r).bay c = s.bay c := by
  simp [State.bay, h]
theorem setBay_bay (s : State) (b c : Bay) (r : BayRec) : (s.setBay b r).bay c = if c = b then r else s.bay c := by
  simp [State.bay, updAt_get]

/-! ## setPoller -/

@[simp] theorem setPoller_pending (s : State) (b : Bay) (p : Poller) : (s.setPoller b p).pending = s.pending := rfl
@[simp] theorem setPoller_now (s : State) (b : Bay) (p : Poller) : (s.setPoller b p).now = s.now := rfl
@[simp] theorem setPoller_link (s : State) (b : Bay) (p : Poller) : (s.setPoller b p).link = s.link := rfl
@[simp] theorem setPoller_bays (s : State) (b : Bay) (p : Poller) : (s.setPoller b p).bays = s.bays := rfl
@[simp] theorem setPoller_pollers (s : State) (b : Bay) (p : Poller) : (s.setPoller b p).pollers = updAt s.pollers b p := rfl
@[simp] theorem setPoller_ports (s : State) (b : Bay) (p : Poller) : (s.setPoller b p).ports = s.ports := rfl
@[simp] theorem setPoller_seqs (s : State) (b : Bay) (p : Poller) : (s.setPoller b p).seqs = s.seqs := rfl
@[simp] theorem setPoller_xfers (s : State) (b : Bay) (p : Poller) : (s.setPoller b p).xfers = s.xfers := rfl
@[simp] theorem setPoller_gov (s : State) (b : Bay) (p : Poller) : (s.setPoller b p).gov = s.gov := rfl
@[simp] theorem setPoller_engine (s : State) (b : Bay) (p : Poller) : (s.setPoller b p).engine = s.engine := rfl
@[simp] theorem setPoller_areas (s : State) (b : Bay) (p : Poller) : (s.setPoller b p).areas = s.areas := rfl
@[simp] theorem setPoller_solves (s : State) (b : Bay) (p : Poller) : (s.setPoller b p).solves = s.solves := rfl
@[simp] theorem setPoller_stock (s : State) (b : Bay) (p : Poller) : (s.setPoller b p).stock = s.stock := rfl
@[simp] theorem setPoller_table (s : State) (b : Bay) (p : Poller) : (s.setPoller b p).table = s.table := rfl
@[simp] theorem setPoller_out (s : State) (b : Bay) (p : Poller) : (s.setPoller b p).out = s.out := rfl
@[simp] theorem setPoller_bay (s : State) (b : Bay) (p : Poller) (c : Bay) : (s.setPoller b p).bay c = s.bay c := rfl
@[simp] theorem setPoller_port (s : State) (b : Bay) (p : Poller) (c : Bay) : (s.setPoller b p).port c = s.port c := rfl
@[simp] theorem setPoller_seq (s : State) (b : Bay) (p : Poller) (c : Bay) : (s.setPoller b p).seq c = s.seq c := rfl
@[simp] theorem setPoller_xfer (s : State) (b : Bay) (p : Poller) (c : Bay) : (s.setPoller b p).xfer c = s.xfer c := rfl
@[simp] theorem setPoller_area (s : State) (b : Bay) (p : Poller) (c : Bay) : (s.setPoller b p).area c = s.area c := rfl
@[simp] theorem setPoller_solve (s : State) (b : Bay) (p : Poller) (c : Bay) : (s.setPoller b p).solve c = s.solve c := rfl
@[simp] theorem setPoller_probe (s : State) (b : Bay) (p : Poller) (c : Bay) : (s.setPoller b p).probe c = s.probe c := rfl
@[simp] theorem setPoller_poller_self (s : State) (b : Bay) (p : Poller) : (s.setPoller b p).poller b = p := by
  simp [State.poller]
@[simp] theorem setPoller_poller_ne (s : State) {b c : Bay} (p : Poller) (h : c ≠ b) : (s.setPoller b p).poller c = s.poller c := by
  simp [State.poller, h]
theorem setPoller_poller (s : State) (b c : Bay) (p : Poller) : (s.setPoller b p).poller c = if c = b then p else s.poller c := by
  simp [State.poller, updAt_get]

/-! ## setPort -/

@[simp] theorem setPort_pending (s : State) (b : Bay) (p : Port) : (s.setPort b p).pending = s.pending := rfl
@[simp] theorem setPort_now (s : State) (b : Bay) (p : Port) : (s.setPort b p).now = s.now := rfl
@[simp] theorem setPort_link (s : State) (b : Bay) (p : Port) : (s.setPort b p).link = s.link := rfl
@[simp] theorem setPort_bays (s : State) (b : Bay) (p : Port) : (s.setPort b p).bays = s.bays := rfl
@[simp] theorem setPort_pollers (s : State) (b : Bay) (p : Port) : (s.setPort b p).pollers = s.pollers := rfl
@[simp] theorem setPort_ports (s : State) (b : Bay) (p : Port) : (s.setPort b p).ports = updAt s.ports b p := rfl
@[simp] theorem setPort_seqs (s : State) (b : Bay) (p : Port) : (s.setPort b p).seqs = s.seqs := rfl
@[simp] theorem setPort_xfers (s : State) (b : Bay) (p : Port) : (s.setPort b p).xfers = s.xfers := rfl
@[simp] theorem setPort_gov (s : State) (b : Bay) (p : Port) : (s.setPort b p).gov = s.gov := rfl
@[simp] theorem setPort_engine (s : State) (b : Bay) (p : Port) : (s.setPort b p).engine = s.engine := rfl
@[simp] theorem setPort_areas (s : State) (b : Bay) (p : Port) : (s.setPort b p).areas = s.areas := rfl
@[simp] theorem setPort_solves (s : State) (b : Bay) (p : Port) : (s.setPort b p).solves = s.solves := rfl
@[simp] theorem setPort_stock (s : State) (b : Bay) (p : Port) : (s.setPort b p).stock = s.stock := rfl
@[simp] theorem setPort_table (s : State) (b : Bay) (p : Port) : (s.setPort b p).table = s.table := rfl
@[simp] theorem setPort_out (s : State) (b : Bay) (p : Port) : (s.setPort b p).out = s.out := rfl
@[simp] theorem setPort_bay (s : State) (b : Bay) (p : Port) (c : Bay) : (s.setPort b p).bay c = s.bay c := rfl
@[simp] theorem setPort_poller (s : State) (b : Bay) (p : Port) (c : Bay) : (s.setPort b p).poller c = s.poller c := rfl
@[simp] theorem setPort_seq (s : State) (b : Bay) (p : Port) (c : Bay) : (s.setPort b p).seq c = s.seq c := rfl
@[simp] theorem setPort_xfer (s : State) (b : Bay) (p : Port) (c : Bay) : (s.setPort b p).xfer c = s.xfer c := rfl
@[simp] theorem setPort_area (s : State) (b : Bay) (p : Port) (c : Bay) : (s.setPort b p).area c = s.area c := rfl
@[simp] theorem setPort_solve (s : State) (b : Bay) (p : Port) (c : Bay) : (s.setPort b p).solve c = s.solve c := rfl
@[simp] theorem setPort_probe (s : State) (b : Bay) (p : Port) (c : Bay) : (s.setPort b p).probe c = s.probe c := rfl
@[simp] theorem setPort_port_self (s : State) (b : Bay) (p : Port) : (s.setPort b p).port b = p := by
  simp [State.port]
@[simp] theorem setPort_port_ne (s : State) {b c : Bay} (p : Port) (h : c ≠ b) : (s.setPort b p).port c = s.port c := by
  simp [State.port, h]
theorem setPort_setPort (s : State) (b : Bay) (p q : Port) : (s.setPort b p).setPort b q = s.setPort b q := by
  simp [State.setPort]
theorem setPort_self (s : State) (b : Bay) : s.setPort b (s.port b) = s := by
  simp [State.setPort, State.port]
theorem setBay_setBay (s : State) (b : Bay) (p q : BayRec) : (s.setBay b p).setBay b q = s.setBay b q := by
  simp [State.setBay]
theorem setBay_self (s : State) (b : Bay) : s.setBay b (s.bay b) = s := by
  simp [State.setBay, State.bay]
theorem setPort_port (s : State) (b c : Bay) (p : Port) : (s.setPort b p).port c = if c = b then p else s.port c := by
  simp [State.port, updAt_get]

/-! ## setSeq -/

@[simp] theorem setSeq_pending (s : State) (b : Bay) (q : Sequencer) : (s.setSeq b q).pending = s.pending := rfl
@[simp] theorem setSeq_now (s : State) (b : Bay) (q : Sequencer) : (s.setSeq b q).now = s.now := rfl
@[simp] theorem setSeq_link (s : State) (b : Bay) (q : Sequencer) : (s.setSeq b q).link = s.link := rfl
@[simp] theorem setSeq_bays (s : State) (b : Bay) (q : Sequencer) : (s.setSeq b q).bays = s.bays := rfl
@[simp] theorem setSeq_pollers (s : State) (b : Bay) (q : Sequencer) : (s.setSeq b q).pollers = s.pollers := rfl
@[simp] theorem setSeq_ports (s : State) (b : Bay) (q : Sequencer) : (s.setSeq b q).ports = s.ports := rfl
@[simp] theorem setSeq_seqs (s : State) (b : Bay) (q : Sequencer) : (s.setSeq b q).seqs = updAt s.seqs b q := rfl
@[simp] theorem setSeq_xfers (s : State) (b : Bay) (q : Sequencer) : (s.setSeq b q).xfers = s.xfers := rfl
@[simp] theorem setSeq_gov (s : State) (b : Bay) (q : Sequencer) : (s.setSeq b q).gov = s.gov := rfl
@[simp] theorem setSeq_engine (s : State) (b : Bay) (q : Sequencer) : (s.setSeq b q).engine = s.engine := rfl
@[simp] theorem setSeq_areas (s : State) (b : Bay) (q : Sequencer) : (s.setSeq b q).areas = s.areas := rfl
@[simp] theorem setSeq_solves (s : State) (b : Bay) (q : Sequencer) : (s.setSeq b q).solves = s.solves := rfl
@[simp] theorem setSeq_stock (s : State) (b : Bay) (q : Sequencer) : (s.setSeq b q).stock = s.stock := rfl
@[simp] theorem setSeq_table (s : State) (b : Bay) (q : Sequencer) : (s.setSeq b q).table = s.table := rfl
@[simp] theorem setSeq_out (s : State) (b : Bay) (q : Sequencer) : (s.setSeq b q).out = s.out := rfl
@[simp] theorem setSeq_bay (s : State) (b : Bay) (q : Sequencer) (c : Bay) : (s.setSeq b q).bay c = s.bay c := rfl
@[simp] theorem setSeq_poller (s : State) (b : Bay) (q : Sequencer) (c : Bay) : (s.setSeq b q).poller c = s.poller c := rfl
@[simp] theorem setSeq_port (s : State) (b : Bay) (q : Sequencer) (c : Bay) : (s.setSeq b q).port c = s.port c := rfl
@[simp] theorem setSeq_xfer (s : State) (b : Bay) (q : Sequencer) (c : Bay) : (s.setSeq b q).xfer c = s.xfer c := rfl
@[simp] theorem setSeq_area (s : State) (b : Bay) (q : Sequencer) (c : Bay) : (s.setSeq b q).area c = s.area c := rfl
@[simp] theorem setSeq_solve (s : State) (b : Bay) (q : Sequencer) (c : Bay) : (s.setSeq b q).solve c = s.solve c := rfl
@[simp] theorem setSeq_probe (s : State) (b : Bay) (q : Sequencer) (c : Bay) : (s.setSeq b q).probe c = s.probe c := rfl
@[simp] theorem setSeq_seq_self (s : State) (b : Bay) (q : Sequencer) : (s.setSeq b q).seq b = q := by
  simp [State.seq]
@[simp] theorem setSeq_seq_ne (s : State) {b c : Bay} (q : Sequencer) (h : c ≠ b) : (s.setSeq b q).seq c = s.seq c := by
  simp [State.seq, h]
theorem setSeq_seq (s : State) (b c : Bay) (q : Sequencer) : (s.setSeq b q).seq c = if c = b then q else s.seq c := by
  simp [State.seq, updAt_get]

/-! ## setXfer -/

@[simp] theorem setXfer_pending (s : State) (b : Bay) (x : Xfer) : (s.setXfer b x).pending = s.pending := rfl
@[simp] theorem setXfer_now (s : State) (b : Bay) (x : Xfer) : (s.setXfer b x).now = s.now := rfl
@[simp] theorem setXfer_link (s : State) (b : Bay) (x : Xfer) : (s.setXfer b x).link = s.link := rfl
@[simp] theorem setXfer_bays (s : State) (b : Bay) (x : Xfer) : (s.setXfer b x).bays = s.bays := rfl
@[simp] theorem setXfer_pollers (s : State) (b : Bay) (x : Xfer) : (s.setXfer b x).pollers = s.pollers := rfl
@[simp] theorem setXfer_ports (s : State) (b : Bay) (x : Xfer) : (s.setXfer b x).ports = s.ports := rfl
@[simp] theorem setXfer_seqs (s : State) (b : Bay) (x : Xfer) : (s.setXfer b x).seqs = s.seqs := rfl
@[simp] theorem setXfer_xfers (s : State) (b : Bay) (x : Xfer) : (s.setXfer b x).xfers = updAt s.xfers b x := rfl
@[simp] theorem setXfer_gov (s : State) (b : Bay) (x : Xfer) : (s.setXfer b x).gov = s.gov := rfl
@[simp] theorem setXfer_engine (s : State) (b : Bay) (x : Xfer) : (s.setXfer b x).engine = s.engine := rfl
@[simp] theorem setXfer_areas (s : State) (b : Bay) (x : Xfer) : (s.setXfer b x).areas = s.areas := rfl
@[simp] theorem setXfer_solves (s : State) (b : Bay) (x : Xfer) : (s.setXfer b x).solves = s.solves := rfl
@[simp] theorem setXfer_stock (s : State) (b : Bay) (x : Xfer) : (s.setXfer b x).stock = s.stock := rfl
@[simp] theorem setXfer_table (s : State) (b : Bay) (x : Xfer) : (s.setXfer b x).table = s.table := rfl
@[simp] theorem setXfer_out (s : State) (b : Bay) (x : Xfer) : (s.setXfer b x).out = s.out := rfl
@[simp] theorem setXfer_bay (s : State) (b : Bay) (x : Xfer) (c : Bay) : (s.setXfer b x).bay c = s.bay c := rfl
@[simp] theorem setXfer_poller (s : State) (b : Bay) (x : Xfer) (c : Bay) : (s.setXfer b x).poller c = s.poller c := rfl
@[simp] theorem setXfer_port (s : State) (b : Bay) (x : Xfer) (c : Bay) : (s.setXfer b x).port c = s.port c := rfl
@[simp] theorem setXfer_seq (s : State) (b : Bay) (x : Xfer) (c : Bay) : (s.setXfer b x).seq c = s.seq c := rfl
@[simp] theorem setXfer_area (s : State) (b : Bay) (x : Xfer) (c : Bay) : (s.setXfer b x).area c = s.area c := rfl
@[simp] theorem setXfer_solve (s : State) (b : Bay) (x : Xfer) (c : Bay) : (s.setXfer b x).solve c = s.solve c := rfl
@[simp] theorem setXfer_probe (s : State) (b : Bay) (x : Xfer) (c : Bay) : (s.setXfer b x).probe c = s.probe c := rfl
@[simp] theorem setXfer_xfer_self (s : State) (b : Bay) (x : Xfer) : (s.setXfer b x).xfer b = x := by
  simp [State.xfer]
@[simp] theorem setXfer_xfer_ne (s : State) {b c : Bay} (x : Xfer) (h : c ≠ b) : (s.setXfer b x).xfer c = s.xfer c := by
  simp [State.xfer, h]
theorem setXfer_xfer (s : State) (b c : Bay) (x : Xfer) : (s.setXfer b x).xfer c = if c = b then x else s.xfer c := by
  simp [State.xfer, updAt_get]

/-! ## setArea -/

@[simp] theorem setArea_pending (s : State) (b : Bay) (a : Area) : (s.setArea b a).pending = s.pending := rfl
@[simp] theorem setArea_now (s : State) (b : Bay) (a : Area) : (s.setArea b a).now = s.now := rfl
@[simp] theorem setArea_link (s : State) (b : Bay) (a : Area) : (s.setArea b a).link = s.link := rfl
@[simp] theorem setArea_bays (s : State) (b : Bay) (a : Area) : (s.setArea b a).bays = s.bays := rfl
@[simp] theorem setArea_pollers (s : State) (b : Bay) (a : Area) : (s.setArea b a).pollers = s.pollers := rfl
@[simp] theorem setArea_ports (s : State) (b : Bay) (a : Area) : (s.setArea b a).ports = s.ports := rfl
@[simp] theorem setArea_seqs (s : State) (b : Bay) (a : Area) : (s.setArea b a).seqs = s.seqs := rfl
@[simp] theorem setArea_xfers (s : State) (b : Bay) (a : Area) : (s.setArea b a).xfers = s.xfers := rfl
@[simp] theorem setArea_gov (s : State) (b : Bay) (a : Area) : (s.setArea b a).gov = s.gov := rfl
@[simp] theorem setArea_engine (s : State) (b : Bay) (a : Area) : (s.setArea b a).engine = s.engine := rfl
@[simp] theorem setArea_areas (s : State) (b : Bay) (a : Area) : (s.setArea b a).areas = updAt s.areas b a := rfl
@[simp] theorem setArea_solves (s : State) (b : Bay) (a : Area) : (s.setArea b a).solves = s.solves := rfl
@[simp] theorem setArea_stock (s : State) (b : Bay) (a : Area) : (s.setArea b a).stock = s.stock := rfl
@[simp] theorem setArea_table (s : State) (b : Bay) (a : Area) : (s.setArea b a).table = s.table := rfl
@[simp] theorem setArea_out (s : State) (b : Bay) (a : Area) : (s.setArea b a).out = s.out := rfl
@[simp] theorem setArea_bay (s : State) (b : Bay) (a : Area) (c : Bay) : (s.setArea b a).bay c = s.bay c := rfl
@[simp] theorem setArea_poller (s : State) (b : Bay) (a : Area) (c : Bay) : (s.setArea b a).poller c = s.poller c := rfl
@[simp] theorem setArea_port (s : State) (b : Bay) (a : Area) (c : Bay) : (s.setArea b a).port c = s.port c := rfl
@[simp] theorem setArea_seq (s : State) (b : Bay) (a : Area) (c : Bay) : (s.setArea b a).seq c = s.seq c := rfl
@[simp] theorem setArea_xfer (s : State) (b : Bay) (a : Area) (c : Bay) : (s.setArea b a).xfer c = s.xfer c := rfl
@[simp] theorem setArea_solve (s : State) (b : Bay) (a : Area) (c : Bay) : (s.setArea b a).solve c = s.solve c := rfl
@[simp] theorem setArea_probe (s : State) (b : Bay) (a : Area) (c : Bay) : (s.setArea b a).probe c = s.probe c := rfl
@[simp] theorem setArea_area_self (s : State) (b : Bay) (a : Area) : (s.setArea b a).area b = a := by
  simp [State.area]
@[simp] theorem setArea_area_ne (s : State) {b c : Bay} (a : Area) (h : c ≠ b) : (s.setArea b a).area c = s.area c := by
  simp [State.area, h]
theorem setArea_area (s : State) (b c : Bay) (a : Area) : (s.setArea b a).area c = if c = b then a else s.area c := by
  simp [State.area, updAt_get]

/-! ## setSolve -/

@[simp] theorem setSolve_pending (s : State) (b : Bay) (k : Option SolveKind) : (s.setSolve b k).pending = s.pending := rfl
@[simp] theorem setSolve_now (s : State) (b : Bay) (k : Option SolveKind) : (s.setSolve b k).now = s.now := rfl
@[simp] theorem setSolve_link (s : State) (b : Bay) (k : Option SolveKind) : (s.setSolve b k).link = s.link := rfl
@[simp] theorem setSolve_bays (s : State) (b : Bay) (k : Option SolveKind) : (s.setSolve b k).bays = s.bays := rfl
@[simp] theorem setSolve_pollers (s : State) (b : Bay) (k : Option SolveKind) : (s.setSolve b k).pollers = s.pollers := rfl
@[simp] theorem setSolve_ports (s : State) (b : Bay) (k : Option SolveKind) : (s.setSolve b k).ports = s.ports := rfl
@[simp] theorem setSolve_seqs (s : State) (b : Bay) (k : Option SolveKind) : (s.setSolve b k).seqs = s.seqs := rfl
@[simp] theorem setSolve_xfers (s : State) (b : Bay) (k : Option SolveKind) : (s.setSolve b k).xfers = s.xfers := rfl
@[simp] theorem setSolve_gov (s : State) (b : Bay) (k : Option SolveKind) : (s.setSolve b k).gov = s.gov := rfl
@[simp] theorem setSolve_engine (s : State) (b : Bay) (k : Option SolveKind) : (s.setSolve b k).engine = s.engine := rfl
@[simp] theorem setSolve_areas (s : State) (b : Bay) (k : Option SolveKind) : (s.setSolve b k).areas = s.areas := rfl
@[simp] theorem setSolve_solves (s : State) (b : Bay) (k : Option SolveKind) : (s.setSolve b k).solves = updAt s.solves b k := rfl
@[simp] theorem setSolve_stock (s : State) (b : Bay) (k : Option SolveKind) : (s.setSolve b k).stock = s.stock := rfl
@[simp] theorem setSolve_table (s : State) (b : Bay) (k : Option SolveKind) : (s.setSolve b k).table = s.table := rfl
@[simp] theorem setSolve_out (s : State) (b : Bay) (k : Option SolveKind) : (s.setSolve b k).out = s.out := rfl
@[simp] theorem setSolve_bay (s : State) (b : Bay) (k : Option SolveKind) (c : Bay) : (s.setSolve b k).bay c = s.bay c := rfl
@[simp] theorem setSolve_poller (s : State) (b : Bay) (k : Option SolveKind) (c : Bay) : (s.setSolve b k).poller c = s.poller c := rfl
@[simp] theorem setSolve_port (s : State) (b : Bay) (k : Option SolveKind) (c : Bay) : (s.setSolve b k).port c = s.port c := rfl
@[simp] theorem setSolve_seq (s : State) (b : Bay) (k : Option SolveKind) (c : Bay) : (s.setSolve b k).seq c = s.seq c := rfl
@[simp] theorem setSolve_xfer (s : State) (b : Bay) (k : Option SolveKind) (c : Bay) : (s.setSolve b k).xfer c = s.xfer c := rfl
@[simp] theorem setSolve_area (s : State) (b : Bay) (k : Option SolveKind) (c : Bay) : (s.setSolve b k).area c = s.area c := rfl
@[simp] theorem setSolve_probe (s : State) (b : Bay) (k : Option SolveKind) (c : Bay) : (s.setSolve b k).probe c = s.probe c := rfl
@[simp] theorem setSolve_solve_self (s : State) (b : Bay) (k : Option SolveKind) : (s.setSolve b k).solve b = k := by
  simp [State.solve]
@[simp] theorem setSolve_solve_ne (s : State) {b c : Bay} (k : Option SolveKind) (h : c ≠ b) : (s.setSolve b k).solve c = s.solve c := by
  simp [State.solve, h]
theorem setSolve_solve (s : State) (b c : Bay) (k : Option SolveKind) : (s.setSolve b k).solve c = if c = b then k else s.solve c := by
  simp [State.solve, updAt_get]

/-! ## setProbe -/

@[simp] theorem setProbe_pending (s : State) (b : Bay) (p : Probe) : (s.setProbe b p).pending = s.pending := rfl
@[simp] theorem setProbe_now (s : State) (b : Bay) (p : Probe) : (s.setProbe b p).now = s.now := rfl
@[simp] theorem setProbe_link (s : State) (b : Bay) (p : Probe) : (s.setProbe b p).link = s.link := rfl
@[simp] theorem setProbe_bays (s : State) (b : Bay) (p : Probe) : (s.setProbe b p).bays = s.bays := rfl
@[simp] theorem setProbe_pollers (s : State) (b : Bay) (p : Probe) : (s.setProbe b p).pollers = s.pollers := rfl
@[simp] theorem setProbe_ports (s : State) (b : Bay) (p : Probe) : (s.setProbe b p).ports = s.ports := rfl
@[simp] theorem setProbe_seqs (s : State) (b : Bay) (p : Probe) : (s.setProbe b p).seqs = s.seqs := rfl
@[simp] theorem setProbe_xfers (s : State) (b : Bay) (p : Probe) : (s.setProbe b p).xfers = s.xfers := rfl
@[simp] theorem setProbe_gov (s : State) (b : Bay) (p : Probe) : (s.setProbe b p).gov = s.gov := rfl
@[simp] theorem setProbe_areas (s : State) (b : Bay) (p : Probe) : (s.setProbe b p).areas = s.areas := rfl
@[simp] theorem setProbe_solves (s : State) (b : Bay) (p : Probe) : (s.setProbe b p).solves = s.solves := rfl
@[simp] theorem setProbe_stock (s : State) (b : Bay) (p : Probe) : (s.setProbe b p).stock = s.stock := rfl
@[simp] theorem setProbe_table (s : State) (b : Bay) (p : Probe) : (s.setProbe b p).table = s.table := rfl
@[simp] theorem setProbe_out (s : State) (b : Bay) (p : Probe) : (s.setProbe b p).out = s.out := rfl
@[simp] theorem setProbe_bay (s : State) (b : Bay) (p : Probe) (c : Bay) : (s.setProbe b p).bay c = s.bay c := rfl
@[simp] theorem setProbe_poller (s : State) (b : Bay) (p : Probe) (c : Bay) : (s.setProbe b p).poller c = s.poller c := rfl
@[simp] theorem setProbe_port (s : State) (b : Bay) (p : Probe) (c : Bay) : (s.setProbe b p).port c = s.port c := rfl
@[simp] theorem setProbe_seq (s : State) (b : Bay) (p : Probe) (c : Bay) : (s.setProbe b p).seq c = s.seq c := rfl
@[simp] theorem setProbe_xfer (s : State) (b : Bay) (p : Probe) (c : Bay) : (s.setProbe b p).xfer c = s.xfer c := rfl
@[simp] theorem setProbe_area (s : State) (b : Bay) (p : Probe) (c : Bay) : (s.setProbe b p).area c = s.area c := rfl
@[simp] theorem setProbe_solve (s : State) (b : Bay) (p : Probe) (c : Bay) : (s.setProbe b p).solve c = s.solve c := rfl
@[simp] theorem setProbe_queue (s : State) (b : Bay) (p : Probe) : (s.setProbe b p).engine.queue = s.engine.queue := rfl
@[simp] theorem setProbe_current (s : State) (b : Bay) (p : Probe) : (s.setProbe b p).engine.current = s.engine.current := rfl
@[simp] theorem setProbe_lastNumber (s : State) (b : Bay) (p : Probe) :
    (s.setProbe b p).engine.lastNumber = s.engine.lastNumber := rfl
@[simp] theorem setProbe_probe_self (s : State) (b : Bay) (p : Probe) : (s.setProbe b p).probe b = p := by
  simp [State.setProbe, State.probe]
@[simp] theorem setProbe_probe_ne (s : State) {b c : Bay} (p : Probe) (h : c ≠ b) : (s.setProbe b p).probe c = s.probe c := by
  simp [State.setProbe, State.probe, h]
theorem setProbe_probe (s : State) (b c : Bay) (p : Probe) :
    (s.setProbe b p).probe c = if c = b then p else s.probe c := by
  simp [State.setProbe, State.probe, updAt_get]

/-! ## The port of a link that is down, a request that is nobody's, HELLO settled -/

@[simp] theorem down_linkAlive (p : Port) : p.down.linkAlive = false := rfl
@[simp] theorem down_keepClock (p : Port) : p.down.keepClock = .stopped := rfl
@[simp] theorem down_keepDue (p : Port) : p.down.keepDue = false := rfl
@[simp] theorem down_keepTaken (p : Port) : p.down.keepTaken = none := rfl
@[simp] theorem down_lapseClock (p : Port) : p.down.lapseClock = .stopped := rfl
@[simp] theorem down_queue (p : Port) : p.down.queue = [] := rfl
@[simp] theorem down_hold (p : Port) : p.down.hold = .none := rfl
@[simp] theorem down_openSection (p : Port) : p.down.openSection = none := rfl
@[simp] theorem down_wakePending (p : Port) : p.down.wakePending = false := rfl
@[simp] theorem down_outstanding (p : Port) : p.down.outstanding = p.outstanding := rfl
@[simp] theorem down_tunnel (p : Port) : p.down.tunnel = p.tunnel := rfl

@[simp] theorem orphaned_deadline (o : Outstanding) : o.orphaned.deadline = o.deadline := by
  unfold Outstanding.orphaned; split <;> rfl
@[simp] theorem orphaned_what (o : Outstanding) : o.orphaned.req.what = o.req.what := by
  unfold Outstanding.orphaned; split <;> rfl

@[simp] theorem settleHello_pending (b : Bay) (s : State) : (settleHello b s).pending = s.pending := rfl
@[simp] theorem settleHello_now (b : Bay) (s : State) : (settleHello b s).now = s.now := rfl
@[simp] theorem settleHello_link (b : Bay) (s : State) : (settleHello b s).link = s.link := rfl
@[simp] theorem settleHello_bays (b : Bay) (s : State) : (settleHello b s).bays = s.bays := rfl
@[simp] theorem settleHello_ports (b : Bay) (s : State) : (settleHello b s).ports = s.ports := rfl
@[simp] theorem settleHello_seqs (b : Bay) (s : State) : (settleHello b s).seqs = s.seqs := rfl
@[simp] theorem settleHello_xfers (b : Bay) (s : State) : (settleHello b s).xfers = s.xfers := rfl
@[simp] theorem settleHello_gov (b : Bay) (s : State) : (settleHello b s).gov = s.gov := rfl
@[simp] theorem settleHello_engine (b : Bay) (s : State) : (settleHello b s).engine = s.engine := rfl
@[simp] theorem settleHello_areas (b : Bay) (s : State) : (settleHello b s).areas = s.areas := rfl
@[simp] theorem settleHello_solves (b : Bay) (s : State) : (settleHello b s).solves = s.solves := rfl
@[simp] theorem settleHello_stock (b : Bay) (s : State) : (settleHello b s).stock = s.stock := rfl
@[simp] theorem settleHello_table (b : Bay) (s : State) : (settleHello b s).table = s.table := rfl
@[simp] theorem settleHello_out (b : Bay) (s : State) : (settleHello b s).out = s.out := rfl

end Sys2Proof.Machine
end

