-- ==== Sys2Proof/Laws/Moves.lean ====
section
/-! SUPPORT. Everything a step can do, said once: every operation of the model is a chain of moves, each of which updates one
block and keeps that block's safety condition. An invariant of a block is then proved by cases on `Move`. -/

namespace Sys2Proof.Machine

open Sys2Proof

/-- One update of one block that keeps the block's safety condition. `own` says at which bays the state, the from-state, the
fault list, the identity and link-alive may change, `work` at which the poller and the job fields other than the current key
ID may; at level 0 the line link's own state, the keys, the slots and the time stay. -/
inductive Move (own work : Bay → Prop) : Nat → State → State → Prop
  | time {lv : Nat} (s : State) (n : Nat) (h : s.now ≤ n) : Move own work (lv + 2) s { s with now := n }
  | link {lv : Nat} (s : State) (l : Link) (h : LinkOk s.link → LinkOk l) (c : SameLine s.link l) : Move own work lv s (s.setLink l)
  | station {lv : Nat} (s : State) (l : Link) (h : LinkOk s.link → LinkOk l) : Move own work (lv + 2) s (s.setLink l)
  | bay {lv : Nat} (s : State) (b : Bay) (r : BayRec) (h : BayOk (s.bay b) → BayOk r) (c : SameCore (s.bay b) r)
      (j : r.job.map Job.keyless = (s.bay b).job.map Job.keyless) (a : r.attachTimer = (s.bay b).attachTimer) :
      Move own work lv s (s.setBay b r)
  | job {lv : Nat} (s : State) (b : Bay) (o : work b) (r : BayRec) (h : BayOk (s.bay b) → BayOk r)
      (c : SameCore (s.bay b) r) : Move own work lv s (s.setBay b r)
  | bayTo {lv : Nat} (s : State) (b : Bay) (o : own b) (r : BayRec) (h : BayOk (s.bay b) → BayOk r) : Move own work lv s (s.setBay b r)
  | poller {lv : Nat} (s : State) (b : Bay) (o : work b) (p : Poller) : Move own work lv s (s.setPoller b p)
  | port {lv : Nat} (s : State) (b : Bay) (p : Port) (h : PortOk (s.port b) → PortOk p)
      (c : p.linkAlive = (s.port b).linkAlive) : Move own work lv s (s.setPort b p)
  | portTo {lv : Nat} (s : State) (b : Bay) (o : own b) (p : Port) (h : PortOk (s.port b) → PortOk p) :
      Move own work lv s (s.setPort b p)
  | seq {lv : Nat} (s : State) (b : Bay) (q : Sequencer) : Move own work lv s (s.setSeq b q)
  | xfer {lv : Nat} (s : State) (b : Bay) (x : Xfer) : Move own work lv s (s.setXfer b x)
  | area {lv : Nat} (s : State) (b : Bay) (a : Area) : Move own work lv s (s.setArea b a)
  | solve {lv : Nat} (s : State) (b : Bay) (k : Option SolveKind) : Move own work lv s (s.setSolve b k)
  | gov {lv : Nat} (s : State) (g : Governor) (h : GovOk s.now s.gov → GovOk s.now g)
      (q : s.gov.claimants.Nodup → g.claimants.Nodup) : Move own work lv s (s.setGov g)
  | engine {lv : Nat} (s : State) (e : Engine)
      (h : ∀ c, TableOk s.table → ProbeOk (s.probe c) → ProbeOk (e.probes.get c))
      (q : (s.engine.queue.map Entry.bay).Nodup → (e.queue.map Entry.bay).Nodup) : Move own work lv s (s.setEngine e)
  | stock {lv : Nat} (s : State) (k : Stock) (h : StockOk s.stock → StockOk k) (e : s.stock.Evolves k)
      (c : SameKeys s.stock k) (q : StockOk s.stock → s.stock.claimants.Nodup → k.claimants.Nodup) : Move own work lv s (s.setStock k)
  | loads {lv : Nat} (s : State) (k : Stock) (h : StockOk s.stock → StockOk k) (e : s.stock.Evolves k)
      (q : StockOk s.stock → s.stock.claimants.Nodup → k.claimants.Nodup) :
      Move own work (lv + 2) s (s.setStock k)
  | table {lv : Nat} (s : State) (t : Table) (h : TableOk s.table → TableOk t) (c : SameSlots s.table t) :
      Move own work lv s (s.setTable t)
  | slots {lv : Nat} (s : State) (t : Table) (h : TableOk s.table → TableOk t) : Move own work (lv + 2) s (s.setTable t)
  | out {lv : Nat} (s : State) (o : LinesOut) : Move own work lv s (s.setOut o)
  | bays {lv : Nat} (s : State) (bays : Vector BayRec 4) (pollers : Vector Poller 4) (ports : Vector Port 4)
      (seqs : Vector Sequencer 4) (xfers : Vector Xfer 4) (areas : Vector Area 4) (solves : Vector (Option SolveKind) 4)
      (hb : ∀ b, BayOk (s.bay b) → BayOk (bays.get b)) (hp : ∀ b, PortOk (s.port b) → PortOk (ports.get b)) :
      Move own work (lv + 2) s { s with bays := bays, pollers := pollers, ports := ports, seqs := seqs, xfers := xfers,
                                        areas := areas, solves := solves }

/-- A move of level 0 at some bays is a move of any level at any more bays. -/
theorem Move.up {own own' work work' : Bay → Prop} (ho : ∀ b, own b → own' b) (hw : ∀ b, work b → work' b) {lv : Nat} {s t : State} (h : Move own work 0 s t) :
    Move own' work' lv s t := by
  cases h
  · exact .link _ _ ‹_› ‹_›
  · exact .bay _ _ _ ‹_› ‹_› ‹_› ‹_›
  · exact .job _ _ (hw _ ‹_›) _ ‹_› ‹_›
  · exact .bayTo _ _ (ho _ ‹_›) _ ‹_›
  · exact .poller _ _ (hw _ ‹_›) _
  · exact .port _ _ _ ‹_› ‹_›
  · exact .portTo _ _ (ho _ ‹_›) _ ‹_›
  · exact .seq _ _ _
  · exact .xfer _ _ _
  · exact .area _ _ _
  · exact .solve _ _ _
  · exact .gov _ _ ‹_› ‹_›
  · exact .engine _ _ ‹_› ‹_›
  · exact .stock _ _ ‹_› ‹_› ‹_› ‹_›
  · exact .table _ _ ‹_› ‹_›
  · exact .out _ _

/-- A chain of moves of a level, at some bays. -/
abbrev Moves (own work : Bay → Prop) (lv : Nat) : State → State → Prop := Relation.ReflTransGen (Move own work lv)

variable {own work : Bay → Prop} {lv : Nat} {s t : State} {b : Bay}

theorem SameLine.refl (l : Link) : SameLine l l := ⟨rfl, rfl, rfl, rfl, rfl, List.prefix_refl _⟩

theorem Moves.link (h : Moves own work lv s t) {l : Link} (k : LinkOk t.link → LinkOk l) (c : SameLine t.link l) :
    Moves own work lv s (t.setLink l) := h.tail (.link _ _ k c)
theorem Moves.station (h : Moves own work (lv + 2) s t) {l : Link} (k : LinkOk t.link → LinkOk l) : Moves own work (lv + 2) s (t.setLink l) :=
  h.tail (.station _ _ k)
theorem Moves.bay (h : Moves own work lv s t) {r : BayRec} (k : BayOk (t.bay b) → BayOk r)
    (c : SameCore (t.bay b) r := by exact ⟨rfl, rfl, rfl, rfl, rfl, rfl⟩)
    (j : r.job.map Job.keyless = (t.bay b).job.map Job.keyless := by rfl)
    (a : r.attachTimer = (t.bay b).attachTimer := by rfl) : Moves own work lv s (t.setBay b r) :=
  h.tail (.bay _ _ _ k c j a)
theorem Moves.job [o : Fact (work b)] (h : Moves own work lv s t) {r : BayRec} (k : BayOk (t.bay b) → BayOk r)
    (c : SameCore (t.bay b) r := by exact ⟨rfl, rfl, rfl, rfl, rfl, rfl⟩) : Moves own work lv s (t.setBay b r) :=
  h.tail (.job _ _ o.out _ k c)
theorem Moves.bayTo [o : Fact (own b)] (h : Moves own work lv s t) {r : BayRec} (k : BayOk (t.bay b) → BayOk r) :
    Moves own work lv s (t.setBay b r) := h.tail (.bayTo _ _ o.out _ k)
theorem Moves.poller [o : Fact (work b)] (h : Moves own work lv s t) {p : Poller} : Moves own work lv s (t.setPoller b p) := h.tail (.poller _ _ o.out _)
theorem Moves.port (h : Moves own work lv s t) {p : Port} (k : PortOk (t.port b) → PortOk p)
    (c : p.linkAlive = (t.port b).linkAlive := by rfl) : Moves own work lv s (t.setPort b p) := h.tail (.port _ _ _ k c)
theorem Moves.portTo [o : Fact (own b)] (h : Moves own work lv s t) {p : Port} (k : PortOk (t.port b) → PortOk p) :
    Moves own work lv s (t.setPort b p) := h.tail (.portTo _ _ o.out _ k)
theorem Moves.seq (h : Moves own work lv s t) {q : Sequencer} : Moves own work lv s (t.setSeq b q) := h.tail (.seq _ _ _)
theorem Moves.xfer (h : Moves own work lv s t) {x : Xfer} : Moves own work lv s (t.setXfer b x) := h.tail (.xfer _ _ _)
theorem Moves.area (h : Moves own work lv s t) {a : Area} : Moves own work lv s (t.setArea b a) := h.tail (.area _ _ _)
theorem Moves.solve (h : Moves own work lv s t) {k : Option SolveKind} : Moves own work lv s (t.setSolve b k) := h.tail (.solve _ _ _)
theorem Moves.gov (h : Moves own work lv s t) {g : Governor} (k : GovOk t.now t.gov → GovOk t.now g)
    (q : t.gov.claimants.Nodup → g.claimants.Nodup := by exact id) : Moves own work lv s (t.setGov g) := h.tail (.gov _ _ k q)
theorem Moves.engine (h : Moves own work lv s t) {e : Engine}
    (k : ∀ c, TableOk t.table → ProbeOk (t.probe c) → ProbeOk (e.probes.get c))
    (q : (t.engine.queue.map Entry.bay).Nodup → (e.queue.map Entry.bay).Nodup := by exact id) :
    Moves own work lv s (t.setEngine e) := h.tail (.engine _ _ k q)
theorem Moves.stock (h : Moves own work lv s t) {k : Stock} (c : StockOk t.stock → StockOk k) (e : t.stock.Evolves k)
    (m : SameKeys t.stock k) (q : StockOk t.stock → t.stock.claimants.Nodup → k.claimants.Nodup) :
    Moves own work lv s (t.setStock k) := h.tail (.stock _ _ c e m q)
theorem Moves.loads (h : Moves own work (lv + 2) s t) {k : Stock} (c : StockOk t.stock → StockOk k) (e : t.stock.Evolves k)
    (q : StockOk t.stock → t.stock.claimants.Nodup → k.claimants.Nodup) :
    Moves own work (lv + 2) s (t.setStock k) := h.tail (.loads _ _ c e q)
theorem Moves.table (h : Moves own work lv s t) {x : Table} (k : TableOk t.table → TableOk x) (c : SameSlots t.table x) :
    Moves own work lv s (t.setTable x) := h.tail (.table _ _ k c)
theorem Moves.slots (h : Moves own work (lv + 2) s t) {x : Table} (k : TableOk t.table → TableOk x) :
    Moves own work (lv + 2) s (t.setTable x) := h.tail (.slots _ _ k)
theorem Moves.out (h : Moves own work lv s t) {o : LinesOut} : Moves own work lv s (t.setOut o) := h.tail (.out _ _)

theorem Moves.up {own' work' : Bay → Prop} (ho : ∀ b, own b → own' b) (hw : ∀ b, work b → work' b) (h : Moves own work 0 s t) : Moves own' work' lv s t := by
  induction h with
  | refl => exact .refl
  | tail _ m ih => exact ih.tail (m.up ho hw)

/-- No move touches the command queue. -/
theorem Moves.pending_eq (h : Moves own work lv s t) : t.pending = s.pending := by
  induction h with
  | refl => rfl
  | tail _ m ih => rw [← ih]; cases m <;> rfl

/-- A probe record replaced by one in range. -/
theorem Moves.probe (h : Moves own work lv s t) {p : Probe} (k : TableOk t.table → ProbeOk (t.probe b) → ProbeOk p) :
    Moves own work lv s (t.setProbe b p) := by
  refine h.engine (fun c ht hc => ?_)
  simp only [updAt_get]
  split
  · next e => subst e; exact k ht hc
  · exact hc

/-! ## Ops -/

theorem bump_le (n : Nat) : bump n ≤ 65535 := Nat.min_le_right _ _

theorem offerNotice_ok {l : Link} (n : Notice) (h : LinkOk l) : LinkOk (l.offerNotice n) := by
  obtain ⟨a, o, c, d, e⟩ := h
  unfold Link.offerNotice
  split
  · next g =>
    refine ⟨a, ?_, c, d, e⟩
    simp only [Link.occupied, Config.noticeLimit, List.length_append, List.length_singleton] at g ⊢
    omega
  · exact ⟨a, o, bump_le _, d, e⟩

theorem fillReply_ok {l : Link} (k t : Nat) (st : Status) (body : List Byte) (h : LinkOk l) :
    LinkOk (l.fillReply k t st body) := by
  obtain ⟨a, o, c, d, e⟩ := h
  unfold Link.fillReply
  split
  · exact ⟨a, o, c, d, e⟩
  · next n g =>
    refine ⟨a, ?_, c, d, e⟩
    simp only [Link.occupied, g, List.length_append, List.length_singleton] at o ⊢
    omega

theorem offerNotice_same (l : Link) (n : Notice) : SameLine l (l.offerNotice n) := by
  unfold Link.offerNotice
  split
  · exact ⟨rfl, rfl, rfl, rfl, rfl, List.prefix_append _ _⟩
  · exact SameLine.refl l

theorem fillReply_same (l : Link) (k t : Nat) (st : Status) (body : List Byte) : SameLine l (l.fillReply k t st body) := by
  unfold Link.fillReply
  split
  · exact SameLine.refl l
  · exact ⟨rfl, rfl, rfl, rfl, rfl, List.prefix_append _ _⟩

theorem placeNotice_moves (n : Notice) (h : Moves own work lv s t) : Moves own work lv s (placeNotice n t) := by
  unfold placeNotice
  split
  · exact h
  · exact h.link (offerNotice_ok n) (offerNotice_same _ _)

theorem bayNotice_moves (n : Notice) (h : Moves own work lv s t) : Moves own work lv s (bayNotice b n t) := by
  unfold bayNotice
  split
  · exact h
  · exact placeNotice_moves n h

theorem placeReply_moves (k tag : Nat) (st : Status) (body : List Byte) (h : Moves own work lv s t) :
    Moves own work lv s (placeReply k tag st body t) := by
  unfold placeReply
  split
  · exact h
  · exact h.link (fillReply_ok k tag st body) (fillReply_same _ _ _ _ _)

theorem setEntryAside_moves (h : Moves own work lv s t) (free : canDispatch t = true) : Moves own work lv s (setEntryAside t) := by
  refine h.link (fun ⟨a, o, c, d, e⟩ => ⟨a, ?_, c, d, e⟩) (SameLine.refl t.link)
  have free : t.link.occupied < 32 := by
    simp only [canDispatch, Bool.and_eq_true, decide_eq_true_eq] at free
    exact free.1
  simp only [Link.occupied] at free ⊢
  omega

theorem countRequest_moves (h : Moves own work lv s t) : Moves own work lv s (countRequest b t) :=
  h.bay (fun ⟨a, c, d, _, f, g⟩ => ⟨a, c, d, bump_le _, f, g⟩)

/-- Fewer claims on the governor leave one per bay where there was one. -/
theorem claimants_fewer {g : Governor} {q : List Waiting} {x : List Held} (hq : q.Sublist g.queue) (hx : x.Sublist g.held)
    (h : g.claimants.Nodup) : (q.map Waiting.bay ++ x.map Held.bay).Nodup :=
  h.sublist ((hq.map _).append (hx.map _))

theorem releaseAdmission_moves (h : Moves own work lv s t) : Moves own work lv s (releaseAdmission b t) :=
  h.gov id (claimants_fewer (List.Sublist.refl _) List.filter_sublist)

theorem setOutcome_moves (id : Nat) (o : SectionOutcome) (h : Moves own work lv s t) : Moves own work lv s (setOutcome b id o t) := by
  unfold setOutcome
  split
  · exact h
  · exact h.area

theorem setFrameState_moves (st : FrameState) (h : Moves own work lv s t) : Moves own work lv s (setFrameState b st t) := by
  unfold setFrameState
  split
  · exact h
  · exact h.area

theorem setConfirmed_moves (id n : Nat) (h : Moves own work lv s t) : Moves own work lv s (setConfirmed b id n t) := h.seq

theorem clearRow_moves (row : Nat) (h : Moves own work lv s t) : Moves own work lv s (clearRow b row t) := by
  unfold clearRow
  split
  · exact h.area
  · exact h

theorem writeRow_moves (row : Nat) (r : Row) (h : Moves own work lv s t) : Moves own work lv s (writeRow b row r t) := by
  unfold writeRow
  split
  · exact h.area
  · exact h

theorem modJob_moves (f : Job → Job) [Fact (work b)] (h : Moves own work lv s t) : Moves own work lv s (t.modJob b f) :=
  h.job id

theorem setKeyId_moves (id : Option Nat) (h : Moves own work lv s t) :
    Moves own work lv s (t.modJob b (fun j => { j with keyId := id })) := by
  refine h.bay (fun x => x) ?_ ?_
  · exact ⟨rfl, rfl, rfl, rfl, rfl, rfl⟩
  · cases (t.bay b).job <;> rfl

theorem refProfile_ok {x : Table} (slot : Nat) (f : Nat → Nat) (h : TableOk x) : TableOk (x.refProfile slot f) := by
  unfold Table.refProfile
  split
  · exact h
  · refine ⟨fun i c => ?_, h.2⟩
    simp only [updAt_get]
    split
    · next e => subst e; exact h.1 _ c
    · exact h.1 i c

theorem refClass_ok {x : Table} (id : Nat) (f : Nat → Nat) (h : TableOk x) : TableOk (x.refClass id f) := by
  unfold Table.refClass
  split
  · exact h
  · refine ⟨h.1, fun i c => ?_⟩
    simp only [updAt_get]
    split
    · next e => subst e; exact h.2 _ c
    · exact h.2 i c

theorem SameSlots.trans {a c d : Table} (h : SameSlots a c) (k : SameSlots c d) : SameSlots a d :=
  ⟨fun i => (k.1 i).trans (h.1 i), fun i => (k.2 i).trans (h.2 i)⟩

theorem refProfile_same (x : Table) (slot : Nat) (f : Nat → Nat) : SameSlots x (x.refProfile slot f) := by
  unfold Table.refProfile
  split
  · exact ⟨fun _ => rfl, fun _ => rfl⟩
  · refine ⟨fun i => ?_, fun _ => rfl⟩
    simp only [updAt_get]
    split
    · next e => rw [e]
    · rfl

theorem refClass_same (x : Table) (id : Nat) (f : Nat → Nat) : SameSlots x (x.refClass id f) := by
  unfold Table.refClass
  split
  · exact ⟨fun _ => rfl, fun _ => rfl⟩
  · refine ⟨fun _ => rfl, fun i => ?_⟩
    simp only [updAt_get]
    split
    · next e => rw [e]
    · rfl

theorem modRefs_moves (f : Nat → Nat) (h : Moves own work lv s t) : Moves own work lv s (t.modRefs b f) := by
  unfold State.modRefs
  split
  · exact h
  · dsimp only
    split
    · exact h.table (refProfile_ok _ f) (refProfile_same _ _ _)
    · exact h.table (fun g => refClass_ok _ f (refProfile_ok _ f g)) ((refProfile_same _ _ _).trans (refClass_same _ _ _))

theorem Moves.ite {c : Prop} [Decidable c] {x y : State} (h1 : Moves own work lv s x) (h2 : Moves own work lv s y) :
    Moves own work lv s (if c then x else y) := by
  split
  · exact h1
  · exact h2

end Sys2Proof.Machine
end

