-- ==== Sys2Proof/Laws/MovesPort.lean ====
section
/-! SUPPORT. The operations of the set port, the governor and the engine are chains of moves. -/

namespace Sys2Proof.Machine

open Sys2Proof

variable {own work : Bay → Prop} {lv : Nat} {s t : State} {b : Bay}

/-! ## Key stock updates -/

theorem reaches_refl (a : KeyState) : a.reaches a := by
  cases a <;> simp [KeyState.reaches]

theorem reaches_trans {a c d : KeyState} (h : a.reaches c) (k : c.reaches d) : a.reaches d := by
  cases a <;> cases c <;> cases d <;> simp_all [KeyState.reaches]

theorem Evolves.refl (k : Stock) : k.Evolves k :=
  ⟨Nat.le_refl _, fun r h => .inr ⟨r, h, rfl, rfl, reaches_refl _⟩⟩

theorem Evolves.trans {a c d : Stock} (h : a.Evolves c) (k : c.Evolves d) : a.Evolves d := by
  refine ⟨Nat.le_trans h.1 k.1, fun r hr => ?_⟩
  rcases k.2 r hr with g | ⟨r', hr', e1, e2, e3⟩
  · exact .inl (Nat.le_trans h.1 g)
  · rcases h.2 r' hr' with g | ⟨r'', hr'', f1, f2, f3⟩
    · exact .inl (e1 ▸ g)
    · exact .inr ⟨r'', hr'', f1.trans e1, f2.trans e2, reaches_trans f3 e3⟩

/-- A change of one record that keeps its identity, follows R136 and takes no blob memory. -/
structure KeyStep (f : KeyRec → KeyRec) : Prop where
  keyId : ∀ r : KeyRec, (f r).keyId = r.keyId
  loadSeq : ∀ r : KeyRec, (f r).loadSeq = r.loadSeq
  blobLen : ∀ r : KeyRec, (f r).blobLen = r.blobLen
  reaches : ∀ r : KeyRec, r.state.reaches (f r).state
  ok : ∀ r : KeyRec, RecordOk r → RecordOk (f r)
  live : ∀ r : KeyRec, (f r).state.live = true → r.state.live = true

theorem reserve_step (b : Bay) : KeyStep (KeyRec.reserve b) := by
  constructor <;> intro r <;> unfold KeyRec.reserve <;> cases h : r.state <;>
    simp_all [KeyState.reaches, RecordOk, KeyState.live]

theorem release_step : KeyStep KeyRec.release := by
  constructor <;> intro r <;> unfold KeyRec.release <;> cases h : r.state <;>
    simp_all [KeyState.reaches, RecordOk, KeyState.live]

theorem beginSending_step (b : Bay) : KeyStep (KeyRec.beginSending b) := by
  constructor <;> intro r <;> unfold KeyRec.beginSending <;> cases h : r.state <;> dsimp only <;> (try split_ifs) <;>
    simp_all [KeyState.reaches, RecordOk, KeyState.live]

theorem bind_step (serial : List Byte) : KeyStep (KeyRec.bind serial) := by
  constructor <;> intro r <;> unfold KeyRec.bind <;> cases h : r.state <;>
    simp_all [KeyState.reaches, RecordOk, KeyState.live]

theorem void_step (serial : Option (List Byte)) (reason : VoidReason) : KeyStep (KeyRec.void serial reason) := by
  constructor <;> intro r <;> unfold KeyRec.void <;> cases h : r.state <;>
    simp_all [KeyState.reaches, RecordOk, KeyState.live]

/-- Blob memory used, record by record. -/
theorem blobUsed_cons (r : KeyRec) (rs : List KeyRec) :
    blobUsed (r :: rs) = (if r.state.live then r.blobLen else 0) + blobUsed rs := by
  unfold blobUsed
  simp only [List.map_cons, List.sum_cons, Nat.add_right_cancel_iff]
  cases r.state <;> rfl

theorem blobUsed_append (xs ys : List KeyRec) : blobUsed (xs ++ ys) = blobUsed xs + blobUsed ys := by
  simp [blobUsed]

theorem blobUsed_map_le (g : KeyRec → KeyRec) (hl : ∀ r, (g r).state.live = true → r.state.live = true)
    (hb : ∀ r, (g r).blobLen = r.blobLen) (rs : List KeyRec) : blobUsed (rs.map g) ≤ blobUsed rs := by
  induction rs with
  | nil => exact Nat.le_refl _
  | cons r rs ih =>
    rw [List.map_cons, blobUsed_cons, blobUsed_cons, hb]
    have := hl r
    cases h1 : (g r).state.live <;> cases h2 : r.state.live <;> simp_all
    all_goals omega

theorem blobUsed_filter_le (p : KeyRec → Bool) (rs : List KeyRec) : blobUsed (rs.filter p) ≤ blobUsed rs := by
  induction rs with
  | nil => exact Nat.le_refl _
  | cons r rs ih =>
    rw [List.filter_cons, blobUsed_cons]
    split
    · rw [blobUsed_cons]; omega
    · omega

theorem mapRecords_ok {k : Stock} {g : KeyRec → KeyRec} (hg : KeyStep g) {w : List KeyWait} (h : StockOk k) :
    StockOk { k with records := k.records.map g, waiting := w } := by
  obtain ⟨a, c, d, e, f⟩ := h
  refine ⟨by simpa using a, Nat.le_trans (blobUsed_map_le g hg.live hg.blobLen _) c, ?_, ?_, ?_⟩
  · intro r hr
    obtain ⟨r', hr', rfl⟩ := List.mem_map.mp hr
    exact ⟨hg.ok _ (d r' hr').1, by simpa [hg.loadSeq] using (d r' hr').2⟩
  · simpa [Function.comp_def, hg.loadSeq] using e
  · simpa [Function.comp_def, hg.keyId] using f

theorem mapRecords_evolves (k : Stock) {g : KeyRec → KeyRec} (hg : KeyStep g) (w : List KeyWait) :
    k.Evolves { k with records := k.records.map g, waiting := w } := by
  refine ⟨Nat.le_refl _, fun r hr => ?_⟩
  obtain ⟨r', hr', rfl⟩ := List.mem_map.mp hr
  exact .inr ⟨r', hr', (hg.loadSeq r').symm, (hg.keyId r').symm, hg.reaches r'⟩

theorem mapRecords_same (k : Stock) {g : KeyRec → KeyRec} (hg : KeyStep g) (w : List KeyWait) :
    SameKeys k { k with records := k.records.map g, waiting := w } := by
  refine ⟨rfl, ?_, ?_⟩
  · simp [Function.comp_def, hg.keyId]
  · simp [Function.comp_def, hg.loadSeq]

theorem onRecord_step {f : KeyRec → KeyRec} (hf : KeyStep f) (id : Nat) :
    KeyStep (fun r => if r.keyId == id then f r else r) := by
  constructor <;> intro r <;> split <;>
    first
    | exact hf.keyId r | exact hf.loadSeq r | exact hf.blobLen r | exact hf.reaches r | exact hf.ok r | exact hf.live r
    | rfl | exact reaches_refl _ | exact fun h => h

/-! ### One claim per bay -/

/-- A change of a record that gives no bay a claim. -/
def KeepsClaims (f : KeyRec → KeyRec) : Prop := ∀ r, (f r).state.bay? = none ∨ (f r).state.bay? = r.state.bay?

theorem release_keepsClaims : KeepsClaims KeyRec.release := by
  intro r; unfold KeyRec.release; cases h : r.state <;> simp [KeyState.bay?, h]

theorem beginSending_keepsClaims (b : Bay) : KeepsClaims (KeyRec.beginSending b) := by
  intro r; unfold KeyRec.beginSending; cases h : r.state <;> dsimp only <;> (try split_ifs) <;>
    simp_all [KeyState.bay?]

theorem bind_keepsClaims (serial : List Byte) : KeepsClaims (KeyRec.bind serial) := by
  intro r; unfold KeyRec.bind; cases h : r.state <;> simp [KeyState.bay?, h]

theorem void_keepsClaims (serial : Option (List Byte)) (reason : VoidReason) : KeepsClaims (KeyRec.void serial reason) := by
  intro r; unfold KeyRec.void; cases h : r.state <;> simp [KeyState.bay?, h]

theorem onRecord_keepsClaims {f : KeyRec → KeyRec} (hf : KeepsClaims f) (id : Nat) :
    KeepsClaims (fun r => if r.keyId == id then f r else r) := by
  intro r
  dsimp only
  split
  · exact hf r
  · exact .inr rfl

theorem bays_fewer {f : KeyRec → KeyRec} (hf : KeepsClaims f) (rs : List KeyRec) :
    ((rs.map f).filterMap (fun r => r.state.bay?)).Sublist (rs.filterMap (fun r => r.state.bay?)) := by
  induction rs with
  | nil => exact List.Sublist.refl _
  | cons r rs ih =>
    simp only [List.map_cons, List.filterMap_cons]
    rcases hf r with e | e <;> rw [e]
    · cases r.state.bay? with
      | none => exact ih
      | some c => exact ih.cons c
    · cases r.state.bay? with
      | none => exact ih
      | some c => exact ih.cons_cons c

theorem keyClaims_fewer {k : Stock} {f : KeyRec → KeyRec} (hf : KeepsClaims f) {w : List KeyWait} (hw : w.Sublist k.waiting)
    (h : k.claimants.Nodup) : ({ k with records := k.records.map f, waiting := w } : Stock).claimants.Nodup :=
  h.sublist ((bays_fewer hf _).append (hw.map _))

/-- The reservation of one record for a bay without a claim. -/
theorem reserve_claims {b : Bay} {id : Nat} (rs : List KeyRec) (w : List Bay) (n : (rs.map KeyRec.keyId).Nodup)
    (h : (rs.filterMap (fun r => r.state.bay?) ++ w).Nodup) (hb : b ∉ rs.filterMap (fun r => r.state.bay?) ++ w) :
    ((rs.map (fun r => if r.keyId == id then r.reserve b else r)).filterMap (fun r => r.state.bay?) ++ w).Nodup ∧
    ∀ x ∈ (rs.map (fun r => if r.keyId == id then r.reserve b else r)).filterMap (fun r => r.state.bay?) ++ w,
      x = b ∨ x ∈ rs.filterMap (fun r => r.state.bay?) ++ w := by
  induction rs with
  | nil => exact ⟨h, fun x m => .inr m⟩
  | cons r rs ih =>
    simp only [List.map_cons, List.nodup_cons] at n
    by_cases e : r.keyId = id
    · have same : rs.map (fun r => if r.keyId == id then r.reserve b else r) = rs := by
        refine (List.map_congr_left (fun x m => ?_)).trans (List.map_id _)
        have : x.keyId ≠ id := fun q => n.1 (e ▸ q ▸ List.mem_map_of_mem m)
        simp [this]
      simp only [List.map_cons, same, e, beq_self_eq_true, if_true]
      unfold KeyRec.reserve
      cases q : r.state with
      | available =>
        simp only [List.filterMap_cons, q, KeyState.bay?] at h hb ⊢
        exact ⟨List.nodup_cons.mpr ⟨hb, h⟩, fun x m => (List.mem_cons.mp m).imp (fun z => z) (fun z => z)⟩
      | reserved c => simp only [List.filterMap_cons, q, KeyState.bay?] at h ⊢; exact ⟨h, fun x m => .inr m⟩
      | sending c => simp only [List.filterMap_cons, q, KeyState.bay?] at h ⊢; exact ⟨h, fun x m => .inr m⟩
      | bound c => simp only [List.filterMap_cons, q, KeyState.bay?] at h ⊢; exact ⟨h, fun x m => .inr m⟩
      | voided c d => simp only [List.filterMap_cons, q, KeyState.bay?] at h ⊢; exact ⟨h, fun x m => .inr m⟩
    · simp only [List.map_cons, List.filterMap_cons, beq_iff_eq, e, if_false] at h hb ⊢
      cases q : r.state.bay? with
      | none =>
        simp only [q] at h hb ⊢
        have := ih n.2 h hb
        simpa only [beq_iff_eq] using this
      | some c =>
        simp only [q, List.cons_append, List.nodup_cons, List.mem_cons, not_or] at h hb ⊢
        obtain ⟨a, d⟩ := ih n.2 h.2 hb.2
        simp only [beq_iff_eq] at a d
        refine ⟨⟨fun m => ?_, a⟩, fun x m => ?_⟩
        · rcases d c m with z | z
          · exact hb.1 z.symm
          · exact h.1 z
        · rcases m with z | z
          · exact .inr (.inl z)
          · exact (d x z).imp (fun z => z) .inr

/-- A change of the record with a key ID that gives no bay a claim. -/
theorem modify_moves (id : Nat) {f : KeyRec → KeyRec} (hf : KeyStep f) (hc : KeepsClaims f) (h : Moves own work lv s t) :
    Moves own work lv s (t.setStock (t.stock.modify id f)) :=
  h.stock (mapRecords_ok (onRecord_step hf id)) (mapRecords_evolves _ (onRecord_step hf id) _)
    (mapRecords_same _ (onRecord_step hf id) _)
    (fun _ => keyClaims_fewer (onRecord_keepsClaims hc id) (List.Sublist.refl _))

/-- A bay without a claim is given a record and, it may be, leaves the waiting list. -/
theorem reserved_moves (id : Nat) {w : List KeyWait} (hw : w.Sublist t.stock.waiting)
    (hb : t.stock.claimants.Nodup → b ∉ t.stock.records.filterMap (fun r => r.state.bay?) ++ w.map KeyWait.bay)
    (h : Moves own work lv s t) :
    Moves own work lv s (t.setStock { t.stock.modify id (KeyRec.reserve b) with waiting := w }) :=
  h.stock (mapRecords_ok (onRecord_step (reserve_step b) id)) (mapRecords_evolves _ (onRecord_step (reserve_step b) id) _)
    (mapRecords_same _ (onRecord_step (reserve_step b) id) _)
    (fun ok q => (reserve_claims _ _ ok.2.2.2.2 (q.sublist ((List.Sublist.refl _).append (hw.map _))) (hb q)).1)

/-- A bay leaves the waiting list. -/
theorem waiting_moves {w : List KeyWait} (hw : w.Sublist t.stock.waiting) (h : Moves own work lv s t) :
    Moves own work lv s (t.setStock { t.stock with waiting := w }) :=
  h.stock id (Evolves.refl _) ⟨rfl, rfl, rfl⟩ (fun _ q => q.sublist ((List.Sublist.refl _).append (hw.map _)))

/-! ## Sending -/

theorem driveSet_moves (bytes : List Byte) (h : Moves own work lv s t) : Moves own work lv s (driveSet b bytes t) := countRequest_moves h.out

theorem sendEffect_moves (r : PortReq) (h : Moves own work lv s t) : Moves own work lv s (sendEffect b r t) := by
  unfold sendEffect
  split
  · exact h.bay id
  · exact (releaseAdmission_moves h).ite h
  · exact (releaseAdmission_moves h).ite h
  · dsimp only
    split
    · exact setConfirmed_moves _ _ h
    · split
      · exact setFrameState_moves _ (setConfirmed_moves _ _ h)
      · exact setConfirmed_moves _ _ h
  · split
    · exact h
    · exact modify_moves _ (beginSending_step b) (beginSending_keepsClaims b) h
  all_goals exact h

theorem takeFirst_holds {p : PortReq → Bool} {q : List PortReq} {r : PortReq} {q' : List PortReq}
    (h : takeFirst p q = some (r, q')) : p r = true := by
  induction q generalizing r q' with
  | nil => simp [takeFirst] at h
  | cons x xs ih =>
    unfold takeFirst at h
    split at h
    · next g => simp at h; exact h.1 ▸ g
    · simp only [Option.map_eq_some_iff] at h
      obtain ⟨⟨r1, q1⟩, h1, h2⟩ := h
      have := ih h1
      simp at h2
      exact h2.1 ▸ this

/-- What the choice of R53 can be: HELLO alone with link-alive false, WAKE alone in HELD, any request in NONE. -/
theorem next_cases {p : Port} {r : PortReq} {q : List PortReq} (h : p.next = some (r, q)) :
    (p.linkAlive = false ∧ r.what = .hello) ∨
    (p.linkAlive = true ∧ p.hold = .held ∧ r.what = .wake) ∨ (p.linkAlive = true ∧ p.hold = .none) := by
  unfold Port.next at h
  split at h
  · simp at h
  · split at h
    · next g =>
      have := takeFirst_holds h
      simp [PortReq.isHello] at this
      exact .inl ⟨by simpa using g, this⟩
    · next g =>
      have g : p.linkAlive = true := by simpa using g
      split at h
      · next e =>
        have := takeFirst_holds h
        simp [PortReq.isWake] at this
        exact .inr (.inl ⟨g, e, this⟩)
      · simp at h
      · simp at h
      · next e => exact .inr (.inr ⟨g, e⟩)

theorem resume_stopped {now : Nat} : Clock.resume now .stopped = .stopped := rfl

theorem sending_ok {p : Port} {r : PortReq} {q : List PortReq} (now : Nat) (o : Option Outstanding)
    (hn : p.next = some (r, q)) (h : PortOk p) :
    PortOk { ({ p with queue := q } : Port).sending now r with outstanding := o } := by
  obtain ⟨h1, h2⟩ := h
  rcases next_cases hn with ⟨a, c⟩ | ⟨a, c, d⟩ | ⟨a, c⟩
  · rw [Port.sending, c]
    exact ⟨h1, h2⟩
  · rw [Port.sending, d]
    simp only [c, ite_true]
    exact ⟨fun e => by simp [a] at e, fun _ => h2 (.inl c)⟩
  · have h0 : PortOk p := ⟨h1, h2⟩
    unfold Port.sending PortOk
    cases hw : r.what <;> simp [a, c]
    all_goals repeat' split
    all_goals simp_all

theorem sending_alive (p : Port) (now : Nat) (r : PortReq) : (p.sending now r).linkAlive = p.linkAlive := by
  unfold Port.sending
  split <;> repeat' split
  all_goals rfl

theorem send_moves {r : PortReq} {q : List PortReq} (hn : (t.port b).next = some (r, q)) (h : Moves own work lv s t) :
    Moves own work lv s (send b r (t.setPort b { t.port b with queue := q })) := by
  unfold send
  refine sendEffect_moves r (driveSet_moves _ ((h.port (p := { t.port b with queue := q }) id).port ?_ ?_))
  rotate_left
  · simp only [setPort_port_self]; exact sending_alive _ _ _
  intro g
  simp only [setPort_port_self] at g ⊢
  exact sending_ok _ _ hn g

theorem pump_moves (h : Moves own work lv s t) : Moves own work lv s (pump b t) := by
  unfold pump
  split
  · exact h
  · next r q hn => exact send_moves hn h

theorem place_moves (r : PortReq) (h : Moves own work lv s t) : Moves own work lv s (place b r t) := pump_moves (h.port id)

theorem withdraw_moves (p : PortReq → Bool) (h : Moves own work lv s t) : Moves own work lv s (withdraw b p t) := h.port id

theorem setPass_moves (ps : PassState) (h : Moves own work lv s t) : Moves own work lv s (setPass b ps t) := by
  unfold setPass
  split
  · exact h
  · exact h.port id

theorem endQueuedPass_moves (h : Moves own work lv s t) : Moves own work lv s (endQueuedPass b t) := by
  unfold endQueuedPass
  split
  · exact h
  · split
    · exact placeReply_moves _ _ _ _ (setPass_moves _ (withdraw_moves _ h))
    · exact h

theorem endPass_moves (h : Moves own work lv s t) : Moves own work lv s (endPass b t) := by
  unfold endPass
  split
  · exact h
  · split
    · exact h
    · exact placeReply_moves _ _ _ _ (setPass_moves _ h)
    · exact placeReply_moves _ _ _ _ (setPass_moves _ h)

theorem replyPass_moves (st : Status) (body : List Byte) (h : Moves own work lv s t) : Moves own work lv s (replyPass b st body t) := by
  unfold replyPass
  split
  · exact h
  · split
    · exact placeReply_moves _ _ _ _ (setPass_moves _ h)
    · exact h

theorem linkUp_moves [Fact (own b)] (h : Moves own work lv s t) : Moves own work lv s (linkUp b t) := h.portTo (fun _ => ⟨by simp, by simp⟩)

theorem markOpenPartial_moves (h : Moves own work lv s t) : Moves own work lv s (markOpenPartial b t) := by
  unfold markOpenPartial
  split
  · exact h
  · exact setOutcome_moves _ _ h

theorem settleHello_moves [Fact (work b)] (h : Moves own work lv s t) : Moves own work lv s (settleHello b t) := h.poller

theorem linkDown_moves [Fact (own b)] [Fact (work b)] (h : Moves own work lv s t) : Moves own work lv s (linkDown b t) :=
  settleHello_moves ((markOpenPartial_moves (endQueuedPass_moves h)).portTo (fun _ => ⟨by simp [Port.down], by simp [Port.down]⟩))

theorem closeRecord_moves (h : Moves own work lv s t) : Moves own work lv s (closeRecord b t) := by
  refine h.port (fun ⟨h1, h2⟩ => ⟨fun e => ?_, fun e => ?_⟩)
  · obtain ⟨a, c, d, f, _⟩ := h1 e
    exact ⟨a, by simp [c, resume_stopped], d, f, rfl⟩
  · obtain ⟨a, c⟩ := h2 e
    exact ⟨a, by simp [c, resume_stopped]⟩

theorem makeKeepDue_moves (alive : (t.port b).linkAlive = true) (h : Moves own work lv s t) : Moves own work lv s (makeKeepDue b t) :=
  h.port (fun ⟨_, h2⟩ => ⟨fun e => by simp [alive] at e, h2⟩)

theorem keepDueAgain_moves (alive : (t.port b).linkAlive = true) (h : Moves own work lv s t) : Moves own work lv s (keepDueAgain b t) :=
  h.port (fun ⟨_, h2⟩ => ⟨fun e => by simp [alive] at e, h2⟩)

theorem orphanOutstanding_moves (h : Moves own work lv s t) : Moves own work lv s (orphanOutstanding b t) := h.port id

/-! ## Governor -/

theorem placeShow_moves (h : Moves own work lv s t) : Moves own work lv s (placeShow b t) := by
  unfold placeShow
  split
  · exact h
  · exact place_moves _ h

theorem tellGrant_moves (h : Moves own work lv s t) : Moves own work lv s (tellGrant b t) := by
  unfold tellGrant
  split
  · split
    · exact h.bay id
    · exact placeShow_moves h
  · exact h

theorem grantBay_moves {w : Waiting} {rest : List Waiting} (hq : t.gov.queue = w :: rest) (h : Moves own work lv s t) :
    Moves own work lv s (grantBay w.bay t) := by
  refine tellGrant_moves (h.gov (fun ⟨h1, h2⟩ => ⟨List.Pairwise.cons h2 h1, ?_⟩) (fun n => ?_))
  · intro x hx
    rcases List.mem_cons.mp hx with rfl | hx
    · exact Nat.le_refl _
    · exact h2 x hx
  · unfold Governor.claimants at n ⊢
    rw [hq] at n
    simp only [Governor.grant, hq, List.drop_one, List.tail_cons, List.map_cons, List.map_append, List.map_nil,
      List.cons_append] at n ⊢
    rw [← List.append_assoc]
    exact (List.perm_append_singleton w.bay (rest.map Waiting.bay ++ t.gov.held.map Held.bay)).nodup_iff.mpr n

theorem settleHead_moves (fuel : Nat) (h : Moves own work lv s t) : Moves own work lv s (settleHead fuel t) := by
  induction fuel generalizing t with
  | zero => exact h.gov id
  | succ n ih =>
    unfold settleHead
    split
    · exact h.gov id
    · next e =>
      dsimp only
      split
      · exact ih (grantBay_moves e h)
      · exact h.gov id

theorem headChanged_moves (h : Moves own work lv s t) : Moves own work lv s (headChanged t) := settleHead_moves _ h

theorem requestAdmission_moves (h : Moves own work lv s t) : Moves own work lv s (requestAdmission b t) := by
  unfold requestAdmission
  split
  · exact h
  · next nb =>
    have k : Moves own work lv s (t.setGov { t.gov with queue := t.gov.queue ++ [{ bay := b, joined := t.now }] }) := by
      refine h.gov id (fun n => ?_)
      unfold Governor.claimants at n nb ⊢
      simp only [List.map_append, List.map_cons, List.map_nil, List.append_assoc, List.cons_append, List.nil_append]
      exact (List.perm_middle.nodup_iff).mpr (List.nodup_cons.mpr ⟨nb, n⟩)
    unfold joinAdmission
    dsimp only
    split
    · exact headChanged_moves k
    · exact k

theorem withdrawRequest_moves (h : Moves own work lv s t) : Moves own work lv s (withdrawRequest b t) := by
  unfold withdrawRequest
  split
  · exact h
  · next e =>
    split
    · exact headChanged_moves (h.gov id
        (claimants_fewer (e ▸ (List.filter_sublist.trans (List.sublist_cons_self _ _))) (List.Sublist.refl _)))
    · exact h.gov id (claimants_fewer (e ▸ (List.filter_sublist.cons_cons _)) (List.Sublist.refl _))

theorem startPatch_moves (h : Moves own work lv s t) : Moves own work lv s (startPatch b t) := by
  unfold startPatch
  split
  · exact h
  · split
    · exact requestAdmission_moves h
    · split
      · exact requestAdmission_moves h
      · exact placeShow_moves h

end Sys2Proof.Machine
end

