-- ==== Sys2Proof/Laws/MovesEngine.lean ====
section
/-! SUPPORT. The operations of the capture engine and the key stock are chains of moves. -/

namespace Sys2Proof.Machine

open Sys2Proof

variable {own work : Bay → Prop} {lv : Nat} {s t : State} {b : Bay}

/-! ## Engine -/

theorem driveProbe_moves (bytes : List Byte) (h : Moves own work lv s t) : Moves own work lv s (driveProbe b bytes t) := h.out

theorem nextSeqNo_le (n : Nat) : nextSeqNo n ≤ 255 := by
  unfold nextSeqNo; omega

theorem sendFrameReq_moves (cols rows : Nat) (h : Moves own work lv s t) : Moves own work lv s (sendFrameReq b cols rows t) :=
  driveProbe_moves _ (h.probe (fun _ ⟨a, c, d, e, f, _⟩ => ⟨a, c, d, e, f, nextSeqNo_le _⟩))

theorem sendRefReq_moves (h : Moves own work lv s t) : Moves own work lv s (sendRefReq b t) :=
  driveProbe_moves _ (h.probe (fun _ ⟨a, c, d, e, f, _⟩ => ⟨a, c, d, e, f, nextSeqNo_le _⟩))

/-- An update of the engine that keeps the probe records. -/
theorem Moves.sameProbes (h : Moves own work lv s t) {e : Engine} (k : e.probes = t.engine.probes)
    (q : (t.engine.queue.map Entry.bay).Nodup → (e.queue.map Entry.bay).Nodup := by exact id) : Moves own work lv s (t.setEngine e) :=
  h.engine (fun c _ g => by rw [k]; exact g) q

/-- Entries that leave the queue leave one per bay where there was one. -/
theorem entries_fewer {q q' : List Entry} (hq : q'.Sublist q) (h : (q.map Entry.bay).Nodup) : (q'.map Entry.bay).Nodup :=
  h.sublist (hq.map _)

theorem setCurrent_moves (c : Option Current) (h : Moves own work lv s t) : Moves own work lv s (setCurrent c t) := h.sameProbes rfl

theorem panelClass_ok {x : Table} {id : Nat} {c : ClassFields} (h : TableOk x) (e : x.panelClass id = some c) :
    classInRange c = true := by
  unfold Table.panelClass at e
  split at e
  · simp at e
  · exact h.2 _ c e

theorem bayClass_ok {c : ClassFields} (h : TableOk t.table) (e : t.bayClass b = some c) : classInRange c = true := by
  unfold State.bayClass at e
  split at e
  · simp at e
  · exact panelClass_ok h e

theorem classInRange_step {c : ClassFields} (h : classInRange c = true) : 1 ≤ c.initStep ∧ c.initStep ≤ 12 := by
  simp only [classInRange, Bool.and_eq_true, decide_eq_true_eq] at h
  exact h.1.2

theorem seedProbe_ok {p : Probe} {c : Option ClassFields} (hc : ∀ x, c = some x → classInRange x = true)
    (h : ProbeOk p) : ProbeOk (seedProbe p c) := by
  unfold seedProbe
  split
  · exact h
  · split
    · exact h
    · next x =>
      obtain ⟨a, d⟩ := classInRange_step (hc _ rfl)
      exact ⟨a, d, h.2.2⟩

theorem beginExposing_moves (e : Entry) (h : Moves own work lv s t) : Moves own work lv s (beginExposing e t) :=
  sendFrameReq_moves _ _ (setCurrent_moves _
    (h.probe (fun ht hp => seedProbe_ok (fun _ hx => bayClass_ok ht hx) hp)))

theorem takeEntry_moves (e : Entry) (h : Moves own work lv s t) : Moves own work lv s (takeEntry e t) := by
  unfold takeEntry
  split
  · exact sendRefReq_moves (setCurrent_moves _ h)
  · exact beginExposing_moves e h

theorem chooseEntry_moves (h : Moves own work lv s t) : Moves own work lv s (chooseEntry t) := by
  unfold chooseEntry
  split
  · exact h
  · split
    · exact h
    · exact takeEntry_moves _ h

theorem holdEntry_moves (n : Option Nat) (h : Moves own work lv s t) : Moves own work lv s (holdEntry b n t) := h.bay id

theorem enqueueEntry_moves (e : Entry) (ne : e.bay ∉ t.engine.queue.map Entry.bay) (h : Moves own work lv s t) :
    Moves own work lv s (enqueueEntry e t) := by
  refine h.sameProbes rfl (fun n => ?_)
  simp only [List.map_append, List.map_cons, List.map_nil]
  exact (List.perm_append_singleton e.bay _).nodup_iff.mpr (List.nodup_cons.mpr ⟨ne, n⟩)

theorem placeEntry_moves (h : Moves own work lv s t) : Moves own work lv s (placeEntry b t) := by
  unfold placeEntry
  split
  · split
    · exact h
    · next ne => exact chooseEntry_moves (holdEntry_moves _ (enqueueEntry_moves _ ne h))
  · exact h

theorem endCapture_moves (h : Moves own work lv s t) : Moves own work lv s (endCapture b t) :=
  h.sameProbes rfl (entries_fewer List.filter_sublist)

theorem clearProbeReq_moves (h : Moves own work lv s t) : Moves own work lv s (clearProbeReq b t) := h.probe (fun _ g => g)

theorem clearOwnRow_moves (h : Moves own work lv s t) : Moves own work lv s (clearOwnRow b t) := by
  unfold clearOwnRow
  split
  · exact h
  · split
    · exact h
    · exact clearRow_moves _ h

theorem removeEntry_moves (h : Moves own work lv s t) : Moves own work lv s (removeEntry b t) := by
  unfold removeEntry
  split
  · exact chooseEntry_moves (endCapture_moves (clearProbeReq_moves h))
  · exact h.sameProbes rfl (entries_fewer List.filter_sublist)

theorem withdrawEntry_moves (h : Moves own work lv s t) : Moves own work lv s (withdrawEntry b t) := by
  unfold withdrawEntry
  split
  · exact h
  · exact removeEntry_moves (clearOwnRow_moves (holdEntry_moves _ h))

theorem tellCompletion_moves (n : Nat) (h : Moves own work lv s t) : Moves own work lv s (tellCompletion b n t) := by
  unfold tellCompletion
  split
  · exact place_moves _ (holdEntry_moves _ h)
  · exact h

theorem countCapture_moves (h : Moves own work lv s t) : Moves own work lv s (countCapture b t) :=
  h.probe (fun _ ⟨a, c, d, e, _, f⟩ => ⟨a, c, d, e, Nat.min_le_right _ _, f⟩)

theorem completeCapture_moves (c : Current) (h : Moves own work lv s t) : Moves own work lv s (completeCapture c t) := by
  unfold completeCapture
  refine chooseEntry_moves (tellCompletion_moves _ (endCapture_moves (releaseAdmission_moves
    (countCapture_moves (writeRow_moves _ _ h)))))

/-- The state a capture step leaves. -/
def CaptureStep.state : CaptureStep → State
  | .goesOn x => x
  | .fails _ x => x

theorem newFactor_range {m n f : Nat} (h : newFactor m n = some f) : 922 ≤ f ∧ f ≤ 1126 := by
  unfold newFactor at h
  split at h
  · simp at h
  · dsimp only at h
    split at h
    · next g => simp at h; omega
    · simp at h

theorem onReference_moves (c : Current) (m n : Nat) (h : Moves own work lv s t) : Moves own work lv s (onReference c m n t).state := by
  unfold onReference
  dsimp only
  split
  · next f e =>
    obtain ⟨p, q⟩ := newFactor_range e
    exact beginExposing_moves _ (h.probe (fun _ ⟨a, c, _, _, _, g⟩ => ⟨a, c, p, q, Nat.zero_le _, g⟩))
  · exact h.probe (fun _ g => g)

theorem countAdjustment_moves (h : Moves own work lv s t) : Moves own work lv s (countAdjustment b t) :=
  h.bay (fun ⟨a, _, d, e, f, g⟩ => ⟨a, bump_le _, d, e, f, g⟩)

theorem countDiscard_moves (h : Moves own work lv s t) : Moves own work lv s (countDiscard b t) := h.bay (fun ⟨_, d⟩ => ⟨bump_le _, d⟩)

theorem stepTo_moves (c : Current) (n : Nat) (hn : ProbeOk (t.probe c.entry.bay) → 1 ≤ n ∧ n ≤ 12) (h : Moves own work lv s t) :
    Moves own work lv s (stepTo c n t).state := by
  have k : Moves own work lv s (countAdjustment c.entry.bay (t.setProbe c.entry.bay { t.probe c.entry.bay with step := n })) :=
    countAdjustment_moves (h.probe (fun _ g => ⟨(hn g).1, (hn g).2, g.2.2⟩))
  unfold stepTo
  dsimp only
  split
  · exact k
  · exact sendFrameReq_moves _ _ (setCurrent_moves _ k)

theorem onExposure_moves (c : Current) (sat peak : Nat) (h : Moves own work lv s t) : Moves own work lv s (onExposure c sat peak t).state := by
  unfold onExposure
  dsimp only
  split
  · split
    · exact stepTo_moves c _ (fun ⟨_, g, _⟩ => ⟨by omega, by omega⟩) h
    · exact h
  · split
    · exact stepTo_moves c _ (fun _ => ⟨by omega, by omega⟩) h
    · exact h
  · exact sendFrameReq_moves _ _ (setCurrent_moves _ h)

theorem onSample_moves (c : Current) (valid : Nat) (zones : List ZoneEntry) (h : Moves own work lv s t) :
    Moves own work lv s (onSample c valid zones t).state := by
  unfold onSample
  dsimp only
  split
  · split
    · exact completeCapture_moves _ (setCurrent_moves _ h)
    · exact sendFrameReq_moves _ _ (setCurrent_moves _ h)
  · split
    · exact countDiscard_moves (setCurrent_moves _ h)
    · exact sendFrameReq_moves _ _ (countDiscard_moves (setCurrent_moves _ h))

theorem onDelivery_moves (c : Current) (d : Delivery) (h : Moves own work lv s t) : Moves own work lv s (onDelivery c d t).state := by
  unfold onDelivery
  split
  · exact onReference_moves _ _ _ h
  · exact onExposure_moves _ _ _ h
  · exact onSample_moves _ _ _ h
  all_goals exact h

/-! ## Key stock -/

theorem idleXfer_moves (h : Moves own work lv s t) : Moves own work lv s (idleXfer b t) := h.xfer

theorem voidRecord_moves (id : Nat) (serial : Option (List Byte)) (reason : VoidReason) (h : Moves own work lv s t) :
    Moves own work lv s (voidRecord id serial reason t) := modify_moves id (void_step serial reason) (void_keepsClaims serial reason) h

theorem leaveWaiting_moves (h : Moves own work lv s t) : Moves own work lv s (leaveWaiting b t) :=
  waiting_moves List.filter_sublist h

theorem reserveRecord_moves (id : Nat) (nb : b ∉ t.stock.claimants) (h : Moves own work lv s t) : Moves own work lv s (reserve b id t) :=
  reserved_moves id (List.Sublist.refl _) (fun _ => nb) h

theorem joinWaiting_moves (cls : Nat) (region : Triple) (nb : b ∉ t.stock.claimants) (h : Moves own work lv s t) :
    Moves own work lv s (joinWaiting b cls region t) := by
  refine place_moves _ (bayNotice_moves _ (h.stock id (Evolves.refl _) ⟨rfl, rfl, rfl⟩ (fun _ n => ?_)))
  unfold Stock.claimants at n nb ⊢
  simp only [List.map_append, List.map_cons, List.map_nil, ← List.append_assoc]
  exact (List.perm_append_singleton b _).nodup_iff.mpr (List.nodup_cons.mpr ⟨nb, n⟩)

/-- The claim of a bay in the waiting list is its only one. -/
theorem waiting_only {k : Stock} {w : KeyWait} (m : w ∈ k.waiting) (h : k.claimants.Nodup) :
    w.bay ∉ k.records.filterMap (fun r => r.state.bay?) ++ (k.waiting.filter (fun x => x.bay ≠ w.bay)).map KeyWait.bay := by
  unfold Stock.claimants at h
  simp only [List.mem_append, not_or]
  refine ⟨fun x => (List.nodup_append.mp h).2.2 _ x _ (List.mem_map_of_mem m) rfl, fun x => ?_⟩
  obtain ⟨y, hy, e⟩ := List.mem_map.mp x
  simpa [e] using List.of_mem_filter hy

theorem giveTo_moves (id : Nat) {w : KeyWait} (m : w ∈ t.stock.waiting) (h : Moves own work lv s t) :
    Moves own work lv s (giveTo w.bay id t) :=
  reserved_moves id List.filter_sublist (waiting_only m) h

/-- The state the start of a transfer leaves. -/
def Started.state : Started → State
  | .runs x => x
  | .voided x => x

theorem startTransfer_moves (h : Moves own work lv s t) : Moves own work lv s (startTransfer b t).state := by
  unfold startTransfer
  split
  · exact h
  · split
    · exact h
    · split
      · exact h
      · dsimp only
        split
        · exact place_moves _ h.xfer
        · exact voidRecord_moves _ _ _ (bayNotice_moves _ (idleXfer_moves (setKeyId_moves _ h)))

theorem takeReservation_moves (id : Nat) (h : Moves own work lv s t) : Moves own work lv s (takeReservation b id t).state := by
  have k : Moves own work lv s (withdraw b PortReq.isHold (t.modJob b (fun j => { j with keyId := some id }))) :=
    withdraw_moves _ (setKeyId_moves _ h)
  unfold takeReservation
  dsimp only
  split
  · exact startTransfer_moves k
  · change Moves own work lv s (if _ then _ else _)
    split
    · exact k
    · exact place_moves _ k
  · exact k.port (fun x => x)
  · exact k

theorem askKey_moves (fuel : Nat) (h : Moves own work lv s t) : Moves own work lv s (askKey fuel b t) := by
  induction fuel generalizing t with
  | zero => exact h
  | succ n ih =>
    unfold askKey
    split
    · exact h
    · next nb =>
      split
      · exact h
      · split
        · exact joinWaiting_moves _ _ nb h
        · next k _ =>
          have g := takeReservation_moves (b := b) k.keyId (reserveRecord_moves (b := b) k.keyId nb h)
          split
          · next x e => rw [e] at g; exact g
          · next x e => rw [e] at g; exact ih g

theorem askReservation_moves (h : Moves own work lv s t) : Moves own work lv s (askReservation b t) := askKey_moves _ h

theorem afterStart_moves (x : Started) (h : Moves own work lv s x.state) : Moves own work lv s (afterStart b x) := by
  cases x
  · exact h
  · exact askReservation_moves h

theorem offer_moves (id : Nat) (h : Moves own work lv s t) : Moves own work lv s (offer id t) := by
  unfold offer
  split
  · exact h
  · split
    · exact h
    · next w e =>
      have k := giveTo_moves id (List.mem_of_find?_eq_some e) h
      dsimp only
      split
      · exact afterStart_moves _ (takeReservation_moves _ k)
      · exact k

theorem onAwake_moves (h : Moves own work lv s t) : Moves own work lv s (onAwake b t) := by
  unfold onAwake
  split
  · exact afterStart_moves _ (startTransfer_moves h)
  · exact h

theorem returnReserved_moves (h : Moves own work lv s t) : Moves own work lv s (returnReserved b t) := by
  unfold returnReserved
  split
  · exact h
  · exact modify_moves _ release_step release_keepsClaims h

theorem voidSending_moves (h : Moves own work lv s t) : Moves own work lv s (voidSending b t) := by
  unfold voidSending
  split
  · exact h
  · exact bayNotice_moves _ (voidRecord_moves _ _ _ h)

theorem stopXfer_moves (h : Moves own work lv s t) : Moves own work lv s (stopXfer b t) := by
  unfold stopXfer
  split
  · exact h.xfer
  · exact idleXfer_moves h

theorem withdrawKeys_moves (h : Moves own work lv s t) : Moves own work lv s (withdrawKeys b t) := by
  have k : Moves own work lv s (withdrawKeyClaims b t) :=
    stopXfer_moves (leaveWaiting_moves (voidSending_moves (returnReserved_moves h)))
  unfold withdrawKeys
  split
  · exact k
  · exact offer_moves _ k

end Sys2Proof.Machine
end

