-- ==== Sys2Proof/Laws/MovesJobs.lean ====
section
/-! SUPPORT. The shared operations of the bay controllers are chains of moves. -/

namespace Sys2Proof.Machine

open Sys2Proof

variable {own work : Bay → Prop} {lv : Nat} {s t : State} {b : Bay}

/-- A bay's record with a state other than FAULTED and the counters and fault list as they were. -/
theorem bayOk_leave {r r' : BayRec} (hs : r'.state ≠ .faulted) (h1 : r'.discarded = r.discarded)
    (h2 : r'.adjustments = r.adjustments) (h3 : r'.overtimes = r.overtimes) (h4 : r'.requests = r.requests)
    (h5 : r'.faults.length ≤ r.faults.length) (h : BayOk r) : BayOk r' := by
  obtain ⟨a, c, d, e, f, _⟩ := h
  exact ⟨h1 ▸ a, h2 ▸ c, h3 ▸ d, h4 ▸ e, Nat.le_trans h5 f, fun g => absurd g hs⟩

/-! ## Cleanup -/

theorem placeClose_moves (h : Moves own work lv s t) : Moves own work lv s (placeClose b t) := by
  unfold placeClose
  split
  · exact h
  · split
    · exact h
    · exact place_moves _ h

theorem placeWake_moves (h : Moves own work lv s t) : Moves own work lv s (placeWake b t) := by
  unfold placeWake
  split
  · split
    · exact h
    · exact place_moves _ h
  · exact h.port id
  · exact h
  · exact h

theorem placeDark_moves (h : Moves own work lv s t) : Moves own work lv s (placeDark b t) := by
  unfold placeDark
  split
  · exact place_moves _ h
  · exact h

theorem closePartial_moves (h : Moves own work lv s t) : Moves own work lv s (closePartial b t) :=
  Moves.ite h (markOpenPartial_moves h)

theorem cleanupTraffic_moves (h : Moves own work lv s t) : Moves own work lv s (cleanupTraffic b t) :=
  placeDark_moves (placeWake_moves (placeClose_moves (closePartial_moves h)))

theorem cleanupSilent_moves (h : Moves own work lv s t) : Moves own work lv s (cleanupSilent b t) :=
  ((markOpenPartial_moves h).port (fun ⟨h1, h2⟩ =>
    ⟨fun e => ⟨(h1 e).1, (h1 e).2.1, (h1 e).2.2.1, (h1 e).2.2.2.1, rfl⟩, h2⟩)).bay id

theorem withdrawClaims_moves (h : Moves own work lv s t) : Moves own work lv s (withdrawClaims b t) := by
  apply Moves.solve
  apply Moves.bay
  · exact withdrawEntry_moves (releaseAdmission_moves (withdrawRequest_moves h))
  · exact id
  · exact ⟨rfl, rfl, rfl, rfl, rfl, rfl⟩
  · rfl
  · rfl

theorem forgetKey_moves (h : Moves own work lv s t) : Moves own work lv s (forgetKey b t) := setKeyId_moves _ h

theorem cleanup_moves (h : Moves own work lv s t) : Moves own work lv s (cleanup b t) := by
  have k := withdraw_moves (b := b) withdrawnByCleanup
    (withdrawKeys_moves (b := b) (orphanOutstanding_moves (b := b) (withdrawClaims_moves (b := b) h)))
  unfold cleanup
  dsimp only
  split
  · exact forgetKey_moves (cleanupTraffic_moves k)
  · exact forgetKey_moves (cleanupSilent_moves k)

variable [Fact (own b)] [Fact (work b)]

omit [Fact (work b)] in
theorem clearPort_moves (h : Moves own work lv s t) : Moves own work lv s (clearPort b t) :=
  h.portTo (fun _ => ⟨fun _ => ⟨rfl, rfl, rfl, rfl, rfl⟩, fun _ => ⟨rfl, rfl⟩⟩)

omit [Fact (work b)] in
theorem removalCleanup_moves (h : Moves own work lv s t) : Moves own work lv s (removalCleanup b t) :=
  forgetKey_moves (withdrawKeys_moves (clearPort_moves (cleanupSilent_moves (withdrawClaims_moves (endPass_moves h)))))

/-! ## Faults -/

omit [Fact (own b)] in
omit [Fact (work b)] in
theorem haltSeq_moves (h : Moves own work lv s t) : Moves own work lv s (haltSeq b t) := by
  unfold haltSeq
  split
  · exact h
  · exact h.seq

theorem placeReply_bay (k tag : Nat) (st : Status) (body : List Byte) (x : State) (c : Bay) :
    (placeReply k tag st body x).bay c = x.bay c := by
  unfold placeReply
  split <;> rfl

theorem setPass_bay (ps : PassState) (x : State) (c : Bay) : (setPass b ps x).bay c = x.bay c := by
  unfold setPass
  split <;> rfl

theorem endQueuedPass_bay (x : State) (c : Bay) : (endQueuedPass b x).bay c = x.bay c := by
  unfold endQueuedPass
  split
  · rfl
  · split
    · rw [placeReply_bay, setPass_bay]; rfl
    · rfl

theorem enterFaulted_moves (cause : FaultCause) (detail : Nat) (keep : Bool) (ho : isOrigin (t.bay b).state)
    (h : Moves own work lv s t) : Moves own work lv s (enterFaulted b cause detail keep t) := by
  unfold enterFaulted
  dsimp only
  refine cleanup_moves (haltSeq_moves (settleHello_moves (placeNotice_moves _ ((endQueuedPass_moves h).bayTo ?_))))
  rw [endQueuedPass_bay]
  exact fun ⟨a, c, d, e, _, _⟩ => ⟨a, c, d, e, by simp [BayRec.enterFault], fun _ => ⟨by simp [BayRec.enterFault], _, rfl, ho⟩⟩

theorem appendFault_ok {r : BayRec} (cause : FaultCause) (h : BayOk r) : BayOk (r.appendFault cause) := by
  obtain ⟨a, c, d, e, f, g⟩ := h
  unfold BayRec.appendFault
  split
  · next l => exact ⟨a, c, d, e, by simpa using l, fun k => ⟨by simp, (g k).2⟩⟩
  · exact ⟨a, c, d, e, f, g⟩

theorem raiseFault_moves (cause : FaultCause) (detail : Nat) (keep : Bool) (h : Moves own work lv s t) :
    Moves own work lv s (raiseFault b cause detail keep t) := by
  unfold raiseFault
  split
  · exact h.bayTo (appendFault_ok cause)
  · next e => exact enterFaulted_moves _ _ _ (by simp [e, isOrigin]) h
  · next e => exact enterFaulted_moves _ _ _ (by simp [e, isOrigin]) h
  · next e => exact enterFaulted_moves _ _ _ (by simp [e, isOrigin]) h
  · next e => exact enterFaulted_moves _ _ _ (by simp [e, isOrigin]) h
  · next e => exact enterFaulted_moves _ _ _ (by simp [e, isOrigin]) h
  · exact h
  · exact h

theorem raiseSilent_moves (cause : FaultCause) (h : Moves own work lv s t) : Moves own work lv s (raiseSilent b cause t) :=
  raiseFault_moves _ _ _ (linkDown_moves h)

/-! ## Verdicts and stages -/

omit [Fact (own b)] in
omit [Fact (work b)] in
theorem idleSeq_moves (h : Moves own work lv s t) : Moves own work lv s (idleSeq b t) := h.seq

omit [Fact (own b)] in
theorem closeJob_moves (v : Verdict) (h : Moves own work lv s t) : Moves own work lv s (closeJob b v t) :=
  idleSeq_moves (modJob_moves _ (modRefs_moves _ h))

theorem endJob_moves (v : Verdict) (detail : Nat) (h : Moves own work lv s t) : Moves own work lv s (endJob b v detail t) :=
  bayNotice_moves _ ((closeJob_moves v h).bayTo
    (bayOk_leave (by simp) rfl rfl rfl rfl (Nat.le_refl _)))

omit [Fact (own b)] in
omit [Fact (work b)] in
theorem stageNotice_moves (h : Moves own work lv s t) : Moves own work lv s (stageNotice b t) := by
  unfold stageNotice
  split
  · exact h
  · exact bayNotice_moves _ h

omit [Fact (own b)] in
theorem enterStage_moves (f : Job → Job) (h : Moves own work lv s t) : Moves own work lv s (enterStage b f t) :=
  stageNotice_moves (modJob_moves _ h)

omit [Fact (own b)] in
omit [Fact (work b)] in
theorem placeRegion_moves (h : Moves own work lv s t) : Moves own work lv s (placeRegion b t) := by
  unfold placeRegion
  split
  · exact h
  · exact place_moves _ h

theorem enterRegion_moves (h : Moves own work lv s t) : Moves own work lv s (enterRegion b t) := by
  unfold enterRegion
  split
  · exact endJob_moves _ _ h
  · exact placeRegion_moves h

omit [Fact (own b)] in
theorem enterMeasure_moves (h : Moves own work lv s t) : Moves own work lv s (enterMeasure b t) := startPatch_moves (enterStage_moves _ h)

omit [Fact (own b)] in
theorem enterSolve_moves (k : SolveKind) (h : Moves own work lv s t) : Moves own work lv s (enterSolve b k t) := (enterStage_moves _ h).solve

omit [Fact (own b)] in
omit [Fact (work b)] in
theorem openAtCursor_moves (h : Moves own work lv s t) : Moves own work lv s (openAtCursor b t) := place_moves _ h.seq

omit [Fact (own b)] in
omit [Fact (work b)] in
theorem nextSection_moves (h : Moves own work lv s t) : Moves own work lv s (nextSection b t) := by
  unfold nextSection
  split
  · exact openAtCursor_moves h
  · exact place_moves _ h.seq

omit [Fact (own b)] in
theorem enterTransfer_moves (h : Moves own work lv s t) : Moves own work lv s (enterTransfer b t) := openAtCursor_moves (enterStage_moves _ h).seq

omit [Fact (own b)] in
theorem enterVerify_moves (h : Moves own work lv s t) : Moves own work lv s (enterVerify b t) :=
  startPatch_moves (enterStage_moves _ (clearRow_moves _ (clearRow_moves _ (clearRow_moves _ h))))

omit [Fact (own b)] in
theorem enterFinish_moves (h : Moves own work lv s t) : Moves own work lv s (enterFinish b t) := place_moves _ (enterStage_moves _ h)

omit [Fact (own b)] in
theorem nextKey_moves (h : Moves own work lv s t) : Moves own work lv s (nextKey b t) := by
  unfold nextKey
  split
  · exact enterFinish_moves h
  · exact askReservation_moves h

omit [Fact (own b)] in
theorem enterKeys_moves (h : Moves own work lv s t) : Moves own work lv s (enterKeys b t) := nextKey_moves (enterStage_moves _ h)

omit [Fact (own b)] in
omit [Fact (work b)] in
theorem evaluateRow_moves (i : Nat) (h : Moves own work lv s t) : Moves own work lv s (evaluateRow b i t) := by
  unfold evaluateRow
  split
  · exact h
  · exact writeRow_moves _ _ h

theorem evaluateVerify_moves (h : Moves own work lv s t) : Moves own work lv s (evaluateVerify b t) := by
  have k := evaluateRow_moves (b := b) 14 (evaluateRow_moves (b := b) 13 (evaluateRow_moves (b := b) 12 h))
  unfold evaluateVerify
  split
  · exact h
  · dsimp only
    split
    · exact enterKeys_moves (setFrameState_moves _ k)
    · split
      · exact enterSolve_moves _ k
      · exact endJob_moves _ _ k

theorem finishPatch_moves (h : Moves own work lv s t) : Moves own work lv s (finishPatch b t) := by
  have k := modJob_moves (b := b) (fun j => { j with cursor := j.cursor + 1, overtime := 0 }) h
  unfold finishPatch
  dsimp only
  split
  · exact k
  · split
    · split
      · exact enterSolve_moves _ k
      · exact startPatch_moves k
    · split
      · exact evaluateVerify_moves k
      · exact startPatch_moves k

/-! ## Return from FAULTED, removal -/

omit [Fact (own b)] in
omit [Fact (work b)] in
theorem returnPlacements_moves (h : Moves own work lv s t) : Moves own work lv s (returnPlacements b t) := by
  unfold returnPlacements
  split
  · exact placeDark_moves (placeWake_moves (placeClose_moves h))
  · exact h

omit [Fact (own b)] in
omit [Fact (work b)] in
theorem resumeTransfer_moves (h : Moves own work lv s t) : Moves own work lv s (resumeTransfer b t) := by
  unfold resumeTransfer
  split
  · exact h.seq
  · exact nextSection_moves h

omit [Fact (own b)] in
theorem restartStage_moves (h : Moves own work lv s t) : Moves own work lv s (restartStage b t) := by
  unfold restartStage
  split
  · exact h
  · split
    · exact placeRegion_moves h
    · exact startPatch_moves (modJob_moves _ h)
    · exact startPatch_moves (modJob_moves _ h)
    · exact h.solve
    · exact resumeTransfer_moves h
    · exact nextKey_moves h
    · exact place_moves _ h

omit [Fact (own b)] in
theorem startAttach_moves (h : Moves own work lv s t) : Moves own work lv s (startAttach b t) := h.job id

omit [Fact (own b)] in
theorem restart_moves (h : Moves own work lv s t) : Moves own work lv s (restart b t) := by
  unfold restart
  split
  · exact place_moves _ (startAttach_moves h.poller)
  · exact restartStage_moves h
  all_goals exact h

omit [Fact (own b)] in
theorem pollerEmpty_moves (h : Moves own work lv s t) : Moves own work lv s (pollerEmpty b t) := h.poller

omit [Fact (own b)] in
omit [Fact (work b)] in
theorem dropOpenRefs_moves (h : Moves own work lv s t) : Moves own work lv s (dropOpenRefs b t) := by
  unfold dropOpenRefs
  split
  · exact modRefs_moves _ h
  · exact h

theorem emptied_ok {r : BayRec} {st : BayState} (hs : st ≠ .faulted) (h : BayOk r) : BayOk (r.emptied st) :=
  bayOk_leave (r := r) hs rfl rfl rfl rfl (Nat.zero_le _) h

theorem removeSet_moves (h : Moves own work lv s t) : Moves own work lv s (removeSet b t) :=
  placeNotice_moves _ (pollerEmpty_moves
    ((dropOpenRefs_moves (removalCleanup_moves h)).seq.area.bayTo (emptied_ok (by simp))))

omit [Fact (own b)] in
omit [Fact (work b)] in
theorem endHalted_moves (h : Moves own work lv s t) : Moves own work lv s (endHalted b t) := by
  unfold endHalted
  split
  · exact idleXfer_moves h
  · exact h

theorem leaveAttaching_moves (h : Moves own work lv s t) : Moves own work lv s (leaveAttaching b t) :=
  endHalted_moves (pollerEmpty_moves ((clearPort_moves h).bayTo (emptied_ok (by simp))))

end Sys2Proof.Machine
end

