-- ==== Sys2Proof/Laws/MovesEvents.lean ====
section
/-! SUPPORT. The events at bays, governor, engine and solver are chains of moves. -/

namespace Sys2Proof.Machine

open Sys2Proof

variable {own work : Bay → Prop} {lv : Nat} {s t : State} {b : Bay} [Fact (own b)] [Fact (work b)]

/-! ## Polls and bay timers -/

theorem arrive_moves (h : Moves own work lv s t) : Moves own work lv s (arrive b t) := by
  apply startAttach_moves
  apply Moves.bayTo
  · exact h.poller
  · exact bayOk_leave (r := t.bay b) (by simp) rfl rfl rfl rfl (Nat.le_refl _)

theorem reportContact_moves (closed : Bool) (h : Moves own work lv s t) : Moves own work lv s (reportContact b closed t) := by
  unfold reportContact
  split
  · exact (arrive_moves h).ite h
  · exact h.ite (leaveAttaching_moves h)
  · exact h.ite (removeSet_moves h)
  · exact h.ite (removeSet_moves h)
  · exact h.ite (removeSet_moves h)
  · exact h.ite (removeSet_moves h)
  · exact h.ite (removeSet_moves h)
  · exact h

omit [Fact (own b)] in
theorem downshift_moves (h : Moves own work lv s t) : Moves own work lv s (downshift b t) := by
  unfold downshift
  split
  · exact h
  · split
    · exact h
    · split
      · exact h.poller
      · exact h

omit [Fact (own b)] in
theorem helloAtPoll_moves (h : Moves own work lv s t) : Moves own work lv s (helloAtPoll b t) := by
  unfold helloAtPoll
  split
  · exact place_moves _ h.poller
  · exact h

omit [Fact (own b)] in
theorem schedulePoll_moves (h : Moves own work lv s t) : Moves own work lv s (schedulePoll b t) := h.poller

theorem pollBay_moves (closed : Bool) (h : Moves own work lv s t) : Moves own work lv s (pollBay b closed t) := by
  have k := reportContact_moves (b := b) closed h
  have k2 : Moves own work lv s (if decide ((t.bay b).state = .empty) && !closed then downshift b (reportContact b closed t)
      else reportContact b closed t) := (downshift_moves k).ite k
  unfold pollBay
  dsimp only
  exact schedulePoll_moves ((helloAtPoll_moves k2).ite k2)

/-! ## Ends of requests -/

theorem refusedFault_moves (code : Byte) (h : Moves own work lv s t) : Moves own work lv s (refusedFault b code t) := raiseFault_moves _ _ _ h

theorem silentFault_moves (h : Moves own work lv s t) : Moves own work lv s (silentFault b t) := raiseSilent_moves _ h

omit [Fact (own b)] in
theorem helloEnded_moves (h : Moves own work lv s t) : Moves own work lv s (helloEnded b t) := h.poller

omit [Fact (own b)] in
theorem helloTaken_moves (h : Moves own work lv s t) : Moves own work lv s (helloTaken b t) := (withdraw_moves _ h).poller

theorem endHello_moves (e : ReqEnd) (h : Moves own work lv s t) : Moves own work lv s (endHello b e t) := by
  have k : Moves own work lv s (linkUp b (helloTaken b t)) := linkUp_moves (helloTaken_moves h)
  unfold endHello
  split
  · exact (k.ite (place_moves _ k)).ite (k.ite (helloTaken_moves h))
  · exact helloEnded_moves h
  · exact (helloEnded_moves h).ite (silentFault_moves (helloEnded_moves h))

omit [Fact (work b)] in
theorem identified_moves (i : Identity) (h : Moves own work lv s t) : Moves own work lv s (identified b i t) := by
  apply bayNotice_moves
  apply Moves.probe
  · exact h.bayTo (bayOk_leave (r := t.bay b) (by simp) rfl rfl rfl rfl (Nat.le_refl _))
  · exact fun _ g => g

theorem endIdentify_moves (o : Owner) (e : ReqEnd) (h : Moves own work lv s t) : Moves own work lv s (endIdentify b o e t) := by
  unfold endIdentify
  split
  · split
    · split
      · exact identified_moves _ h
      · exact refusedFault_moves _ h
    · exact h
  · exact refusedFault_moves _ h
  · exact silentFault_moves h

omit [Fact (own b)] in
omit [Fact (work b)] in
theorem restartKeepClock_moves (h : Moves own work lv s t) : Moves own work lv s (restartKeepClock b t) := by
  unfold restartKeepClock
  split
  · next g =>
    simp only [Port.keepAliveRuns, Bool.and_eq_true, Bool.or_eq_true, decide_eq_true_eq] at g
    refine h.port (fun ⟨_, h2⟩ => ⟨fun e => ?_, fun e => ?_⟩)
    · simp [g.1] at e
    · rcases g.2 with g | g <;> simp [g] at e
  · exact h

theorem endKeep_moves (e : ReqEnd) (h : Moves own work lv s t) : Moves own work lv s (endKeep b e t) := by
  unfold endKeep
  split
  · exact restartKeepClock_moves h
  · exact raiseFault_moves _ _ _ (restartKeepClock_moves h)
  · exact silentFault_moves h

omit [Fact (own b)] in
omit [Fact (work b)] in
theorem enterHeld_moves (alive : PortOk (t.port b) → (t.port b).linkAlive = true) (h : Moves own work lv s t) :
    Moves own work lv s (enterHeld b t) :=
  h.port (fun g => ⟨fun e => by simp [alive g] at e, fun _ => ⟨rfl, rfl⟩⟩)

/-- In a hold state other than NONE link-alive is true. -/
theorem alive_of_hold {p : Port} (hh : p.hold ≠ .none) (h : PortOk p) : p.linkAlive = true := by
  cases e : p.linkAlive
  · exact absurd (h.1 e).2.2.2.1 hh
  · rfl

theorem endHold_moves (e : ReqEnd) (h : Moves own work lv s t) : Moves own work lv s (endHold b e t) := by
  unfold endHold
  split
  · split
    · next g =>
      have k : Moves own work lv s (enterHeld b t) := enterHeld_moves (alive_of_hold (by simp [g])) h
      exact (place_moves _ k).ite k
    · exact h
  · refine refusedFault_moves _ (Moves.ite (h.port (fun ⟨h1, h2⟩ => ⟨fun e => ?_, by simp⟩)) h)
    obtain ⟨a, c, d, _, f⟩ := h1 e
    exact ⟨a, c, d, rfl, f⟩
  · exact silentFault_moves h

theorem endWake_moves (e : ReqEnd) (h : Moves own work lv s t) : Moves own work lv s (endWake b e t) := by
  unfold endWake
  split
  · split
    · next g =>
      refine onAwake_moves (h.port (fun k => ⟨fun e => ?_, by simp⟩))
      simp [alive_of_hold (by simp [g]) k] at e
    · exact h
  · refine refusedFault_moves _ ?_
    split
    · next g =>
      refine h.port (fun k => ⟨fun e => ?_, fun _ => k.2 (.inr g)⟩)
      simp [alive_of_hold (by simp [g]) k] at e
    · exact h
  · exact silentFault_moves h

omit [Fact (own b)] in
omit [Fact (work b)] in
theorem startSettle_moves (h : Moves own work lv s t) : Moves own work lv s (startSettle b t) := by
  unfold startSettle
  split
  · exact h
  · exact h.bay id

theorem endShow_moves (o : Owner) (e : ReqEnd) (h : Moves own work lv s t) : Moves own work lv s (endShow b o e t) := by
  unfold endShow
  split
  · exact (startSettle_moves h).ite h
  · exact refusedFault_moves _ h
  · exact silentFault_moves h

theorem endDark_moves (o : Owner) (e : ReqEnd) (h : Moves own work lv s t) : Moves own work lv s (endDark b o e t) := by
  unfold endDark
  split
  · dsimp only
    split
    · split
      · exact finishPatch_moves (h.bay id)
      · exact h.bay id
    · split
      · refine placeShow_moves ?_
        apply Moves.bay
        · exact h.bay id
        · exact id
        · exact ⟨rfl, rfl, rfl, rfl, rfl, rfl⟩
        · rfl
        · rfl
      · exact h.bay id
    · exact h.bay id
    · exact h.bay id
  · exact refusedFault_moves _ h
  · exact silentFault_moves h

theorem endRegion_moves (o : Owner) (e : ReqEnd) (h : Moves own work lv s t) : Moves own work lv s (endRegion b o e t) := by
  unfold endRegion
  dsimp only
  split
  · exact (enterMeasure_moves h).ite h
  · exact (endJob_moves _ _ h).ite (refusedFault_moves _ h)
  · exact silentFault_moves h

omit [Fact (own b)] in
omit [Fact (work b)] in
theorem resumeLapse_moves (h : Moves own work lv s t) :
    Moves own work lv s (t.setPort b { t.port b with lapseClock := (t.port b).lapseClock.resume t.now }) := by
  refine h.port (fun ⟨h1, h2⟩ => ⟨fun e => ?_, fun e => ?_⟩)
  · obtain ⟨a, c, d⟩ := h1 e
    exact ⟨a, by simp [c, resume_stopped], d⟩
  · obtain ⟨a, c⟩ := h2 e
    exact ⟨a, by simp [c, resume_stopped]⟩

theorem endFinish_moves (o : Owner) (e : ReqEnd) (h : Moves own work lv s t) : Moves own work lv s (endFinish b o e t) := by
  unfold endFinish
  dsimp only
  split
  · exact (endJob_moves _ _ (linkDown_moves h)).ite (linkDown_moves h)
  · exact (endJob_moves _ _ (resumeLapse_moves h)).ite (refusedFault_moves _ (resumeLapse_moves h))
  · exact silentFault_moves h

/-! ### Map transfer -/

omit [Fact (own b)] in
omit [Fact (work b)] in
theorem sectionReleased_moves (h : Moves own work lv s t) : Moves own work lv s (sectionReleased b t) := by
  unfold sectionReleased
  split
  · exact nextSection_moves h
  · exact h

omit [Fact (own b)] in
omit [Fact (work b)] in
theorem placeBurst_moves (k : Nat) (h : Moves own work lv s t) : Moves own work lv s (placeBurst b k t) := place_moves _ h.seq

theorem compareSection_moves (got : Nat) (h : Moves own work lv s t) : Moves own work lv s (compareSection b got t) := by
  unfold compareSection
  dsimp only
  split
  · exact nextSection_moves (setOutcome_moves _ _ h).seq
  · split
    · exact openAtCursor_moves (setOutcome_moves _ _ h).seq
    · exact endJob_moves _ _ (setOutcome_moves _ _ h)

omit [Fact (own b)] [Fact (work b)] in
theorem openedLate_moves (h : Moves own work lv s t) : Moves own work lv s (openedLate b t) :=
  (markOpenPartial_moves h).ite h

theorem endOpen_moves (o : Owner) (e : ReqEnd) (h : Moves own work lv s t) : Moves own work lv s (endOpen b o e t) := by
  unfold endOpen
  split
  · exact (placeBurst_moves _ h).ite (openedLate_moves h)
  · exact refusedFault_moves _ (closeRecord_moves h)
  · exact silentFault_moves h

theorem endBurst_moves (o : Owner) (id k : Nat) (last : Bool) (e : ReqEnd) (h : Moves own work lv s t) :
    Moves own work lv s (endBurst b o id k last e t) := by
  unfold endBurst
  split
  · split
    · dsimp only
      split
      · exact compareSection_moves _ (setConfirmed_moves _ _ (closeRecord_moves h))
      · exact sectionReleased_moves (setConfirmed_moves _ _ (closeRecord_moves h))
    · dsimp only
      split
      · exact placeBurst_moves _ (setConfirmed_moves _ _ h)
      · exact setConfirmed_moves _ _ h
  · exact refusedFault_moves _ h
  · exact silentFault_moves h

theorem endClose_moves (e : ReqEnd) (h : Moves own work lv s t) : Moves own work lv s (endClose b e t) := by
  unfold endClose
  split
  · exact sectionReleased_moves (closeRecord_moves h)
  · exact refusedFault_moves _ h
  · exact silentFault_moves h

omit [Fact (own b)] in
omit [Fact (work b)] in
theorem frameWritten_moves (h : Moves own work lv s t) : Moves own work lv s (frameWritten b t) := by
  unfold frameWritten
  split
  · exact h
  · exact (setFrameState_moves _ h).ite h

theorem endApply_moves (o : Owner) (e : ReqEnd) (h : Moves own work lv s t) : Moves own work lv s (endApply b o e t) := by
  unfold endApply
  split
  · exact (enterVerify_moves (idleSeq_moves (frameWritten_moves h))).ite (frameWritten_moves h)
  · exact refusedFault_moves _ h
  · exact silentFault_moves h

/-! ### Key transfer -/

theorem failTransfer_moves (reason : VoidReason) (h : Moves own work lv s t) : Moves own work lv s (failTransfer b reason t) := by
  unfold failTransfer
  split
  · exact idleXfer_moves h
  · next k _ =>
    have g : Moves own work lv s (forgetKey b (idleXfer b (bayNotice b (voidNotice b k (some (t.bay b).serial) reason)
        (voidRecord k.keyId (some (t.bay b).serial) reason t)))) :=
      forgetKey_moves (idleXfer_moves (bayNotice_moves _ (voidRecord_moves _ _ _ h)))
    dsimp only
    split
    · exact g
    · split
      · exact askReservation_moves (modJob_moves _ g)
      · exact endJob_moves _ _ g

omit [Fact (own b)] in
theorem bindKey_moves (h : Moves own work lv s t) : Moves own work lv s (bindKey b t) := by
  unfold bindKey
  split
  · exact idleXfer_moves h
  · exact nextKey_moves (modJob_moves _ (idleXfer_moves (bayNotice_moves _ (modify_moves _ (bind_step _) (bind_keepsClaims _) h))))

omit [Fact (own b)] in
omit [Fact (work b)] in
theorem nextChunk_moves (k : Nat) (last : Bool) (h : Moves own work lv s t) : Moves own work lv s (nextChunk b k last t) := by
  unfold nextChunk
  split
  · exact h
  · exact place_moves _ h.xfer

theorem endChunk_moves (o : Owner) (k : Nat) (last : Bool) (e : ReqEnd) (h : Moves own work lv s t) :
    Moves own work lv s (endChunk b o k last e t) := by
  unfold endChunk
  split
  · exact (nextChunk_moves _ _ h).ite (endHalted_moves h)
  · exact (failTransfer_moves _ h).ite (refusedFault_moves _ (endHalted_moves h))
  · exact silentFault_moves (endHalted_moves h)

theorem endKeyEnd_moves (o : Owner) (e : ReqEnd) (h : Moves own work lv s t) : Moves own work lv s (endKeyEnd b o e t) := by
  unfold endKeyEnd
  split
  · exact ((bindKey_moves h).ite (failTransfer_moves _ h)).ite (endHalted_moves h)
  · exact (failTransfer_moves _ h).ite (refusedFault_moves _ (endHalted_moves h))
  · exact silentFault_moves (endHalted_moves h)

/-! ### Any request -/

theorem endRequest_moves (r : PortReq) (e : ReqEnd) (h : Moves own work lv s t) : Moves own work lv s (endRequest b r e t) := by
  unfold endRequest
  split
  · exact endHello_moves e h
  · exact endIdentify_moves _ e h
  · exact endKeep_moves e h
  · exact endHold_moves e h
  · exact endWake_moves e h
  · exact endShow_moves _ e h
  · exact endDark_moves _ e h
  · exact endRegion_moves _ e h
  · exact endChunk_moves _ _ _ e h
  · exact endKeyEnd_moves _ e h
  · exact endOpen_moves _ e h
  · exact endBurst_moves _ _ _ _ e h
  · exact endClose_moves e h
  · exact endApply_moves _ e h
  · exact endFinish_moves _ e h
  · split
    · exact silentFault_moves (replyPass_moves _ _ h)
    · exact h
    · exact h

omit [Fact (own b)] in
omit [Fact (work b)] in
theorem clearOutstanding_moves (h : Moves own work lv s t) : Moves own work lv s (clearOutstanding b t) := h.port id

theorem takeAnswer_moves (r : PortReq) (answer : List Byte) (h : Moves own work lv s t) : Moves own work lv s (takeAnswer b r answer t) := by
  have k := clearOutstanding_moves (b := b) h
  refine pump_moves ?_
  split
  · exact replyPass_moves _ _ k
  all_goals exact endRequest_moves _ _ k

theorem receiveSet_moves (frame : List Byte) (h : Moves own work lv s t) : Moves own work lv s (receiveSet b frame t) := by
  unfold receiveSet
  split
  · exact (takeAnswer_moves _ _ h).ite h
  · exact h

theorem takeLapse_moves (h : Moves own work lv s t) : Moves own work lv s (takeLapse b t) := raiseSilent_moves _ h

theorem keepReached_alive (g : keepReached t b = true) : (t.port b).linkAlive = true := by
  simp only [keepReached, Port.keepAliveRuns, Bool.and_eq_true] at g
  exact g.1.1

theorem keepFallsDue_alive (g : keepFallsDue t b = true) : (t.port b).linkAlive = true := by
  simp only [keepFallsDue, Bool.and_eq_true] at g
  exact keepReached_alive g.1

/-! ## Governor, engine, solver -/

omit [Fact (own b)] in
omit [Fact (work b)] in
theorem darkenRevoked_moves (h : Moves own work lv s t) : Moves own work lv s (darkenRevoked b t) := by
  unfold darkenRevoked
  split
  · exact withdraw_moves _ h
  · split
    · exact h.bay id
    · exact place_moves _ ((orphanOutstanding_moves h).ite h)

theorem takeRevocation_moves (h : Moves own work lv s t) : Moves own work lv s (takeRevocation b t) := by
  have k : Moves own work lv s (withdrawEntry b (darkenRevoked b (t.setBay b { t.bay b with settleTimer := none }))) :=
    withdrawEntry_moves (darkenRevoked_moves (h.bay id))
  revert k
  unfold takeRevocation
  dsimp only
  generalize withdrawEntry b (darkenRevoked b (t.setBay b { t.bay b with settleTimer := none })) = u
  intro k
  have k2 : Moves own work lv s (u.setBay b { u.bay b with overtimes := bump (u.bay b).overtimes }) :=
    k.bay (fun ⟨a, c, _, d⟩ => ⟨a, c, bump_le _, d⟩)
  split
  · exact requestAdmission_moves (modJob_moves _ k2)
  · exact raiseFault_moves _ _ _ k2

theorem failCapture_moves (e : Entry) (cause : FaultCause) [Fact (own e.bay)] [Fact (work e.bay)] (h : Moves own work lv s t) :
    Moves own work lv s (failCapture e cause t) := by
  have k := endCapture_moves (b := e.bay) (clearProbeReq_moves (b := e.bay) h)
  unfold failCapture
  dsimp only
  refine chooseEntry_moves (Moves.ite (raiseFault_moves _ _ _ (k.bay id)) k)

theorem finishDelivery_moves (e : Entry) (x : CaptureStep) [Fact (own e.bay)] [Fact (work e.bay)] (h : Moves own work lv s x.state) :
    Moves own work lv s (finishDelivery e x) := by
  cases x
  · exact h
  · exact failCapture_moves _ _ h

theorem receiveProbe_moves (frame : List Byte) (h : Moves own work lv s t) : Moves own work lv s (receiveProbe b frame t) := by
  unfold receiveProbe
  split
  · next c _ _ _ _ =>
    split
    · next g =>
      obtain ⟨_, rfl⟩ := g
      exact finishDelivery_moves c.entry _ (onDelivery_moves _ _ (clearProbeReq_moves h))
    · exact h
  · exact h

omit [Fact (own b)] in
omit [Fact (work b)] in
theorem writeSolve_moves (r : SolveResult) (h : Moves own work lv s t) : Moves own work lv s (writeSolve b r t) := h.area.seq

theorem takeSolve_moves (k : SolveKind) (j : Job) (h : Moves own work lv s t) : Moves own work lv s (takeSolve b k j t) := by
  have g := writeSolve_moves (b := b) (runSolve k (t.area b) j.params) h
  unfold takeSolve
  dsimp only
  split
  · exact endJob_moves _ _ g
  · split
    · exact enterTransfer_moves g
    · exact enterTransfer_moves (modJob_moves _ g)

end Sys2Proof.Machine
end

