-- ==== Sys2Proof/Laws/MovesRequests.lean ====
section
/-! SUPPORT. The requests of the line are chains of moves at their owning blocks. -/

namespace Sys2Proof.Machine

open Sys2Proof

variable {own work : Bay → Prop} {lv : Nat} {s t : State} {b : Bay} [Fact (own b)] [Fact (work b)]

/-! ## Dispatch -/

theorem refuse_moves (k tag : Nat) (st : Status) (h : Moves own work lv s t) :
    Moves own work lv s (refuse k tag st t) := placeReply_moves _ _ _ _ h

theorem accept_moves (k tag : Nat) (body : List Byte) (h : Moves own work lv s t) : Moves own work lv s (accept k tag body t) :=
  placeReply_moves _ _ _ _ h

theorem atOwner_moves (k tag : Nat) {owner : State → State} (ho : ∀ u, Moves own work lv s u → Moves own work lv s (owner u)) (h : Moves own work lv s t) :
    Moves own work lv s (atOwner k tag owner t) := by
  unfold atOwner
  split
  · next free => exact (placeReply_moves _ _ _ _ (setEntryAside_moves h free)).ite (ho _ (setEntryAside_moves h free))
  · exact h

theorem withBay_moves (k tag bay : Nat) (ho : ∀ b, bayOf bay = some b → own b ∧ work b) {f : Bay → State → State}
    (hf : ∀ b, Fact (own b) → Fact (work b) → ∀ u, Moves own work lv s u → Moves own work lv s (f b u)) (h : Moves own work lv s t) :
    Moves own work lv s (withBay k tag bay f t) := by
  unfold withBay
  split
  · exact refuse_moves _ _ _ h
  · next b e => exact hf b ⟨(ho b e).1⟩ ⟨(ho b e).2⟩ _ h

/-! ## Station requests -/

theorem reqIdent_moves (tag : Nat) (h : Moves own work lv s t) : Moves own work lv s (reqIdent tag t) := accept_moves _ _ _ h

theorem clearCounts_ok {l : Link} (h : LinkOk l) : LinkOk l.clearCounts := by
  obtain ⟨a, c, _, _, e⟩ := h
  exact ⟨a, c, Nat.zero_le _, ⟨Nat.zero_le _, Nat.zero_le _, Nat.zero_le _, Nat.zero_le _⟩, e⟩

theorem reqStatus_moves (tag : Nat) (h : Moves own work (lv + 2) s t) :
    Moves own work (lv + 2) s (reqStatus tag t) := accept_moves _ _ _ (h.station clearCounts_ok)

/-- A value that R180 admits leaves the parameters in range. -/
theorem put_ok {p : Params} {n v : Nat} (ha : p.admits n v = true) (h : ParamsOk p) : ParamsOk (p.put n v) := by
  unfold Params.admits at ha
  unfold ParamsOk at h ⊢
  unfold Params.put
  split at ha <;> first | (simp only [decide_eq_true_eq] at ha; dsimp only; omega) | simp at ha

omit [Fact (own b)] in
omit [Fact (work b)] in
theorem keepAtBay_moves (h : Moves own work lv s t) : Moves own work lv s (keepAtBay t b) := by
  unfold keepAtBay
  split
  · next g => exact pump_moves (makeKeepDue_moves (keepReached_alive g) h)
  · exact h

theorem lapseAtBay_moves (h : Moves own work lv s t) : Moves own work lv s (lapseAtBay t b) := by
  unfold lapseAtBay
  exact (takeLapse_moves h).ite h

theorem foldBays_moves {f : State → Bay → State} (hf : ∀ u b, Moves own work lv s u → Moves own work lv s (f u b)) (l : List Bay)
    (h : Moves own work lv s t) : Moves own work lv s (l.foldl f t) := by
  induction l generalizing t with
  | nil => exact h
  | cons b bs ih => exact ih (hf _ _ h)

theorem configured_moves (n old v : Nat) (ho : ∀ b, own b ∧ work b) (h : Moves own work lv s t) :
    Moves own work lv s (configured n old v t) := by
  unfold configured
  split
  · split
    · exact foldBays_moves (fun _ b g => have : Fact (own b) := ⟨(ho b).1⟩; have : Fact (work b) := ⟨(ho b).2⟩; keepAtBay_moves g) _ h
    · split
      · exact foldBays_moves (fun _ b g => have : Fact (own b) := ⟨(ho b).1⟩; have : Fact (work b) := ⟨(ho b).2⟩; lapseAtBay_moves g) _ h
      · exact h
  · exact h

theorem reqConfigure_moves (tag n v : Nat) (ho : ∀ b, own b ∧ work b) (h : Moves own work (lv + 2) s t) :
    Moves own work (lv + 2) s (reqConfigure tag n v t) := by
  unfold reqConfigure
  split
  · exact refuse_moves _ _ _ h
  · split
    · exact refuse_moves _ _ _ h
    · split
      · exact refuse_moves _ _ _ h
      · next g =>
        refine configured_moves _ _ _ ho (accept_moves _ _ _ (h.station (fun ⟨a, c, d, e, f⟩ => ⟨a, c, d, e, put_ok ?_ f⟩)))
        simpa using g

theorem reqResetFull_moves (tag : Nat) (h : Moves own work (lv + 2) s t) :
    Moves own work (lv + 2) s (reqResetFull tag t) := (accept_moves _ _ _ h).station id

theorem resetBays_step (x : State) : KeyStep (KeyRec.resetBays x) := by
  constructor <;> intro r <;> unfold KeyRec.resetBays KeyRec.release KeyRec.void <;> cases h : r.state <;>
    simp_all [KeyState.reaches, RecordOk, KeyState.live]

theorem bayResetBays_ok (r : BayRec) : BayOk r.resetBays := by
  unfold BayRec.resetBays BayOk
  refine ⟨Nat.zero_le _, Nat.zero_le _, Nat.zero_le _, Nat.zero_le _, Nat.zero_le _, fun e => ?_⟩
  dsimp only at e
  split at e <;> simp at e

theorem reset_portOk : PortOk Port.reset := ⟨fun _ => ⟨rfl, rfl, rfl, rfl, rfl⟩, fun _ => ⟨rfl, rfl⟩⟩

theorem resetProbes_ok {e : Engine} (c : Bay) (h : ProbeOk (e.probes.get c)) : ProbeOk (e.resetBays.probes.get c) := by
  unfold Engine.resetBays
  dsimp only
  split
  · exact h
  · simp only [updAt_get]
    split
    · next d => subst d; exact h
    · exact h

theorem resetBays_keepsClaims (x : State) : KeepsClaims (KeyRec.resetBays x) := by
  intro r; unfold KeyRec.resetBays KeyRec.release KeyRec.void; cases h : r.state <;> simp [KeyState.bay?, h]

theorem resetAllBays_moves (h : Moves own work (lv + 2) s t) : Moves own work (lv + 2) s (resetAllBays t) := by
  have k := foldBays_moves (f := fun u b => dropOpenRefs b u) (fun _ _ g => dropOpenRefs_moves g) allBays h
  unfold resetAllBays
  revert k
  dsimp only
  generalize List.foldl (fun u b => dropOpenRefs b u) t allBays = u
  intro k
  have k0 : Moves own work (lv + 2) s ((u.setGov u.gov.resetBays).setEngine u.engine.resetBays) := by
    apply Moves.engine
    · exact k.gov id (fun _ => List.nodup_nil)
    · exact fun c _ g => resetProbes_ok c g
    · exact fun _ => List.nodup_nil
  have k1 : Moves own work (lv + 2) s (((u.setGov u.gov.resetBays).setEngine u.engine.resetBays).setStock (resetStock u)) :=
    k0.loads (mapRecords_ok (resetBays_step u)) (mapRecords_evolves _ (resetBays_step u) [])
      (fun _ => keyClaims_fewer (resetBays_keepsClaims u) (List.nil_sublist _))
  refine k1.tail (Move.bays _ (Vector.ofFn fun b => (u.bay b).resetBays) _ (Vector.replicate 4 Port.reset) _ _ _ _
    (fun c _ => ?_) (fun c _ => ?_))
  · rw [ofFn_get]; exact bayResetBays_ok _
  · rw [replicate_get]; exact reset_portOk

theorem reqResetBays_moves (tag : Nat) (h : Moves own work (lv + 2) s t) : Moves own work (lv + 2) s (reqResetBays tag t) :=
  accept_moves _ _ _ (resetAllBays_moves (foldBays_moves (fun _ _ g => endPass_moves g) _ h))

/-! ## Requests to a bay -/

omit [Fact (work b)] in
theorem openJob_moves (slot : Nat) (p : JobParams) (h : Moves own work lv s t) : Moves own work lv s (openJob b slot p t) := by
  unfold openJob
  dsimp only
  refine (modRefs_moves _ ?_).area
  apply h.bayTo
  exact bayOk_leave (r := t.bay b) (by simp) rfl rfl rfl rfl (Nat.le_refl _)

theorem startJob_moves (tag slot : Nat) (args : JobArgs) (h : Moves own work lv s t) :
    Moves own work lv s (startJob tag slot args b t) := by
  unfold startJob
  split
  · exact refuse_moves _ _ _ h
  · split
    · exact refuse_moves _ _ _ h
    · split
      · exact refuse_moves _ _ _ h
      · exact enterRegion_moves (stageNotice_moves (accept_moves _ _ _ (openJob_moves _ _ h)))

theorem reqJobStart_moves (tag bay slot : Nat) (args : JobArgs) (ho : ∀ b, bayOf bay = some b → own b ∧ work b) (h : Moves own work lv s t) :
    Moves own work lv s (reqJobStart tag bay slot args t) :=
  withBay_moves _ _ _ ho (fun _ _ _ _ g => (startJob_moves _ _ _ g).ite (refuse_moves _ _ _ g)) h

theorem reqJobAbort_moves (tag bay : Nat) (ho : ∀ b, bayOf bay = some b → own b ∧ work b) (h : Moves own work lv s t) :
    Moves own work lv s (reqJobAbort tag bay t) :=
  withBay_moves _ _ _ ho
    (fun _ _ _ _ g => (endJob_moves _ _ (settleHello_moves (cleanup_moves (accept_moves _ _ _ g)))).ite (refuse_moves _ _ _ g)) h

/-- The from-state of a FAULTED bay is not FAULTED. -/
theorem origin_not_faulted {st : BayState} (h : isOrigin st) : st ≠ .faulted := by
  rintro rfl
  simp [isOrigin] at h

theorem resumed_ok {r : BayRec} (f : r.state = .faulted) (h : BayOk r) : BayOk r.resumed := by
  obtain ⟨a, c, d, e, _, g⟩ := h
  obtain ⟨_, o, ho, hi⟩ := g f
  refine ⟨a, c, d, e, Nat.zero_le _, fun x => ?_⟩
  simp only [BayRec.resumed, ho, Option.getD_some] at x
  exact absurd x (origin_not_faulted hi)

omit [Fact (own b)] in
omit [Fact (work b)] in
theorem keepAgain_moves (first : Bool) (h : Moves own work lv s t) : Moves own work lv s (keepAgain b first t) := by
  unfold keepAgain
  split
  · next g =>
    simp only [Bool.and_eq_true] at g
    exact keepDueAgain_moves g.2 h
  · exact h

theorem accept_bay (k tag : Nat) (body : List Byte) (x : State) (c : Bay) : (accept k tag body x).bay c = x.bay c :=
  placeReply_bay _ _ _ _ _ _

theorem resumeBay_moves (tag : Nat) (f : (t.bay b).state = .faulted) (h : Moves own work lv s t) :
    Moves own work lv s (resumeBay tag b t) := by
  have k := accept_moves resumeKind tag [] h
  have k1 : Moves own work lv s ((accept resumeKind tag [] t).setBay b ((accept resumeKind tag [] t).bay b).resumed) :=
    k.bayTo (resumed_ok (by rw [accept_bay]; exact f))
  unfold resumeBay
  dsimp only
  exact pump_moves (restart_moves (returnPlacements_moves (keepAgain_moves _ ((stageNotice_moves k1).ite k1))))

theorem reqBayResume_moves (tag bay : Nat) (ho : ∀ b, bayOf bay = some b → own b ∧ work b) (h : Moves own work lv s t) :
    Moves own work lv s (reqBayResume tag bay t) := by
  refine withBay_moves _ _ _ ho (fun b _ _ u g => ?_) h
  split
  · next e => exact resumeBay_moves _ e.1 g
  · exact refuse_moves _ _ _ g

omit [Fact (own b)] in
theorem releaseJob_moves (h : Moves own work lv s t) : Moves own work lv s (releaseJob b t) := by
  unfold releaseJob
  exact (placeNotice_moves _ (closeJob_moves _ h)).ite h

theorem toReady_ok {r : BayRec} (h : BayOk r) : BayOk r.toReady :=
  bayOk_leave (r := r) (by simp [BayRec.toReady]) rfl rfl rfl rfl (Nat.zero_le _) h

theorem toAttaching_moves (h : Moves own work lv s t) : Moves own work lv s (toAttaching b t) := by
  apply startAttach_moves
  apply Moves.poller
  apply h.bayTo
  exact bayOk_leave (r := t.bay b) (by simp) rfl rfl rfl rfl (Nat.zero_le _)

omit [Fact (own b)] in
omit [Fact (work b)] in
theorem dropTunnel_moves (h : Moves own work lv s t) : Moves own work lv s (dropTunnel b t) := h.port id

theorem releaseFaulted_moves (tag : Nat) (h : Moves own work lv s t) : Moves own work lv s (releaseFaulted tag b t) := by
  have k := dropTunnel_moves (b := b) (releaseJob_moves (b := b) (accept_moves releaseKind tag [] h))
  unfold releaseFaulted
  dsimp only
  exact returnPlacements_moves ((k.bayTo toReady_ok).ite (toAttaching_moves k))

theorem releaseBay_moves (tag : Nat) (h : Moves own work lv s t) : Moves own work lv s (releaseBay tag b t) := by
  unfold releaseBay
  split
  · exact (refuse_moves _ _ _ h).ite (releaseFaulted_moves _ h)
  · exact (accept_moves _ _ _ (h.bayTo toReady_ok)).ite (refuse_moves _ _ _ h)
  all_goals exact refuse_moves _ _ _ h

theorem reqBayRelease_moves (tag bay : Nat) (ho : ∀ b, bayOf bay = some b → own b ∧ work b) (h : Moves own work lv s t) :
    Moves own work lv s (reqBayRelease tag bay t) :=
  withBay_moves _ _ _ ho (fun _ _ _ _ g => releaseBay_moves _ g) h

theorem parkBay_moves (h : Moves own work lv s t) : Moves own work lv s (parkBay b t) := by
  unfold parkBay
  dsimp only
  refine Moves.probe (Moves.poller (h.bayTo ?_)) (fun _ g => g)
  exact bayOk_leave (r := t.bay b) (by simp) rfl rfl rfl rfl (Nat.le_refl _)

theorem reqBayPark_moves (tag bay : Nat) (ho : ∀ b, bayOf bay = some b → own b ∧ work b) (h : Moves own work lv s t) :
    Moves own work lv s (reqBayPark tag bay t) :=
  withBay_moves _ _ _ ho (fun _ _ _ _ g => (accept_moves _ _ _ (parkBay_moves g)).ite (refuse_moves _ _ _ g)) h

theorem unparkBay_moves (h : Moves own work lv s t) : Moves own work lv s (unparkBay b t) := by
  unfold unparkBay
  dsimp only
  refine Moves.probe (Moves.poller (h.bayTo ?_)) (fun _ g => g)
  exact bayOk_leave (r := t.bay b) (by simp) rfl rfl rfl rfl (Nat.le_refl _)

theorem reqBayUnpark_moves (tag bay : Nat) (ho : ∀ b, bayOf bay = some b → own b ∧ work b) (h : Moves own work lv s t) :
    Moves own work lv s (reqBayUnpark tag bay t) :=
  withBay_moves _ _ _ ho (fun _ _ _ _ g => (accept_moves _ _ _ (unparkBay_moves g)).ite (refuse_moves _ _ _ g)) h

theorem reqBayQuery_moves (tag bay : Nat) (ho : ∀ b, bayOf bay = some b → own b ∧ work b) (h : Moves own work lv s t) :
    Moves own work lv s (reqBayQuery tag bay t) :=
  withBay_moves _ _ _ ho (fun _ _ _ _ g => accept_moves _ _ _
    (g.bay (fun ⟨_, _, _, _, e, f⟩ => ⟨Nat.zero_le _, Nat.zero_le _, Nat.zero_le _, Nat.zero_le _, e, f⟩))) h

/-! ## Tunnel requests -/

omit [Fact (work b)] in
theorem enterTunnel_moves (h : Moves own work lv s t) : Moves own work lv s (enterTunnel b t) := by
  unfold enterTunnel
  dsimp only
  apply Moves.bayTo
  · exact h.port id
  · exact bayOk_leave (r := t.bay b) (by simp) rfl rfl rfl rfl (Nat.le_refl _)

theorem reqTunnelEnter_moves (tag bay : Nat) (ho : ∀ b, bayOf bay = some b → own b ∧ work b) (h : Moves own work lv s t) :
    Moves own work lv s (reqTunnelEnter tag bay t) :=
  withBay_moves _ _ _ ho (fun _ _ _ _ g => (accept_moves _ _ _ (enterTunnel_moves g)).ite (refuse_moves _ _ _ g)) h

omit [Fact (own b)] in
omit [Fact (work b)] in
theorem passThrough_moves (tag : Nat) (x : Tunnel) (carried : List Byte) (h : Moves own work lv s t) :
    Moves own work lv s (passThrough tag b x carried t) := by
  unfold passThrough
  split
  · exact refuse_moves _ _ _ h
  · split
    · exact refuse_moves _ _ _ h
    · refine (refuse_moves _ _ _ h).ite (Moves.ite ?_ (place_moves _ (setPass_moves _ h)))
      exact refuse_moves _ _ _ (h.port id)

theorem reqTunnelPass_moves (tag bay : Nat) (carried : List Byte) (ho : ∀ b, bayOf bay = some b → own b ∧ work b) (h : Moves own work lv s t) :
    Moves own work lv s (reqTunnelPass tag bay carried t) := by
  refine withBay_moves _ _ _ ho (fun b _ _ u g => ?_) h
  split
  · exact passThrough_moves _ _ _ g
  · exact refuse_moves _ _ _ g

omit [Fact (work b)] in
theorem exitTunnel_moves (tag : Nat) (x : Tunnel) (h : Moves own work lv s t) : Moves own work lv s (exitTunnel tag b x t) := by
  unfold exitTunnel
  dsimp only
  refine accept_moves _ _ _ (Moves.bayTo (dropTunnel_moves h) ?_)
  exact bayOk_leave (r := (dropTunnel b t).bay b) (by simp) rfl rfl rfl rfl (Nat.le_refl _)

theorem reqTunnelExit_moves (tag bay : Nat) (ho : ∀ b, bayOf bay = some b → own b ∧ work b) (h : Moves own work lv s t) :
    Moves own work lv s (reqTunnelExit tag bay t) := by
  refine withBay_moves _ _ _ ho (fun b _ _ u g => ?_) h
  split
  · exact (refuse_moves _ _ _ g).ite (exitTunnel_moves _ _ g)
  · exact refuse_moves _ _ _ g

/-! ## Reads -/

omit [Fact (own b)] in
omit [Fact (work b)] in
theorem readSheet_moves (tag row start count : Nat) (h : Moves own work lv s t) :
    Moves own work lv s (readSheet tag b row start count t) := by
  unfold readSheet
  split
  · exact refuse_moves _ _ _ h
  · exact (refuse_moves _ _ _ h).ite (accept_moves _ _ _ h)

theorem reqSheetRead_moves (tag bay row start count : Nat) (ho : ∀ b, bayOf bay = some b → own b ∧ work b) (h : Moves own work lv s t) :
    Moves own work lv s (reqSheetRead tag bay row start count t) :=
  withBay_moves _ _ _ ho (fun _ _ _ _ g => (readSheet_moves _ _ _ _ g).ite (refuse_moves _ _ _ g)) h

omit [Fact (own b)] in
omit [Fact (work b)] in
theorem readMap_moves (tag id start count : Nat) (h : Moves own work lv s t) :
    Moves own work lv s (readMap tag b id start count t) := by
  unfold readMap
  split
  · exact refuse_moves _ _ _ h
  · split
    · exact refuse_moves _ _ _ h
    · exact (refuse_moves _ _ _ h).ite (accept_moves _ _ _ h)

theorem reqMapRead_moves (tag bay sec start count : Nat) (ho : ∀ b, bayOf bay = some b → own b ∧ work b) (h : Moves own work lv s t) :
    Moves own work lv s (reqMapRead tag bay sec start count t) :=
  withBay_moves _ _ _ ho (fun _ _ _ _ g => (readMap_moves _ _ _ _ g).ite (refuse_moves _ _ _ g)) h

/-! ## Key stock requests -/

theorem find_none_notMem {k : Stock} {id : Nat} (h : (k.find id).isSome = false) : id ∉ k.records.map KeyRec.keyId := by
  intro m
  obtain ⟨r, hr, e⟩ := List.mem_map.mp m
  simp only [Stock.find, Option.isSome_eq_false_iff, Option.isNone_iff_eq_none, List.find?_eq_none] at h
  exact h r hr (by simp [e])

theorem newRecord_ok {f : KeyFields} {n : Nat} (h : keyInRange f = true) : RecordOk (newRecord f n) := by
  simp only [keyInRange, Bool.and_eq_true, decide_eq_true_eq] at h
  exact ⟨h.1.1.1.1.1.1, fun _ => ⟨_, rfl, h.1.1.1.2⟩, fun x => by simp [newRecord, KeyState.live] at x⟩

theorem blobUsed_nil : blobUsed [] = 0 := rfl

theorem load_ok {k : Stock} {f : KeyFields} (hf : keyInRange f = true) (hd : (k.find f.keyId).isSome = false)
    (hr : k.hasRoom f.blobLen = true) (h : StockOk k) : StockOk (k.load f) := by
  obtain ⟨_, _, c, d, e⟩ := h
  obtain ⟨r1, r2⟩ : k.records.length < 2048 ∧ blobUsed k.records + f.blobLen ≤ 262144 := by
    simp only [Stock.hasRoom, Bool.and_eq_true, decide_eq_true_eq] at hr
    exact hr
  refine ⟨?_, ?_, ?_, ?_, ?_⟩
  · simp only [Stock.load, List.length_append, List.length_singleton]; omega
  · simp only [Stock.load, blobUsed_append]
    rw [blobUsed_cons]
    simpa [newRecord, KeyState.live, blobUsed_nil] using r2
  · intro r m
    simp only [Stock.load, List.mem_append, List.mem_singleton] at m
    rcases m with m | rfl
    · exact ⟨(c r m).1, Nat.lt_succ_of_lt (c r m).2⟩
    · exact ⟨newRecord_ok hf, Nat.lt_succ_self _⟩
  · simp only [Stock.load, List.map_append, List.pairwise_append, List.map_cons, List.map_nil, List.pairwise_singleton]
    refine ⟨d, trivial, ?_⟩
    intro x hx y hy
    obtain ⟨r, m, rfl⟩ := List.mem_map.mp hx
    simp only [List.mem_singleton, newRecord] at hy
    subst hy
    exact (c r m).2
  · simp only [Stock.load, List.map_append, List.map_cons, List.map_nil, List.nodup_append]
    refine ⟨e, by simp, ?_⟩
    intro x hx y hy
    simp only [List.mem_singleton, newRecord] at hy
    subst hy
    rintro rfl
    exact find_none_notMem hd hx

theorem load_evolves (k : Stock) (f : KeyFields) : k.Evolves (k.load f) := by
  refine ⟨Nat.le_succ _, fun r m => ?_⟩
  simp only [Stock.load, List.mem_append, List.mem_singleton] at m
  rcases m with m | rfl
  · exact .inr ⟨r, m, rfl, rfl, reaches_refl _⟩
  · exact .inl (Nat.le_refl _)

/-- A loaded key is AVAILABLE: no bay's claim. -/
theorem load_claims (k : Stock) (f : KeyFields) (_ : StockOk k) (h : k.claimants.Nodup) : (k.load f).claimants.Nodup := by
  have e : (k.load f).claimants = k.claimants := by
    simp [Stock.load, Stock.claimants, newRecord, KeyState.bay?, List.filterMap_append]
  exact e ▸ h

theorem reqKeyLoad_moves (tag : Nat) (k : KeyFields) (h : Moves own work (lv + 2) s t) :
    Moves own work (lv + 2) s (reqKeyLoad tag k t) := by
  unfold reqKeyLoad
  split
  · exact refuse_moves _ _ _ h
  · next g1 =>
    split
    · exact refuse_moves _ _ _ h
    · split
      · exact refuse_moves _ _ _ h
      · next g2 =>
        split
        · exact refuse_moves _ _ _ h
        · next g3 =>
          refine offer_moves _ (accept_moves _ _ _ (h.loads (load_ok ?_ ?_ ?_) (load_evolves _ _) (load_claims _ _)))
          · simpa using g1
          · simpa using g2
          · simpa using g3

theorem drop_ok {k : Stock} (named test : KeyRec → Bool) (h : StockOk k) : StockOk (k.drop named test) := by
  obtain ⟨a, c, d, e, f⟩ := h
  have sub : (k.drop named test).records.Sublist k.records := List.filter_sublist
  refine ⟨Nat.le_trans sub.length_le a, Nat.le_trans (blobUsed_filter_le _ _) c, fun r m => d r (sub.subset m), ?_, ?_⟩
  · exact List.Pairwise.sublist (sub.map _) e
  · exact List.Nodup.sublist (sub.map _) f

theorem drop_evolves (k : Stock) (named test : KeyRec → Bool) : k.Evolves (k.drop named test) :=
  ⟨Nat.le_refl _, fun r m => .inr ⟨r, List.mem_of_mem_filter m, rfl, rfl, reaches_refl _⟩⟩

theorem drop_claims {k : Stock} (named test : KeyRec → Bool) (_ : StockOk k) (h : k.claimants.Nodup) :
    (k.drop named test).claimants.Nodup :=
  h.sublist ((List.filter_sublist.filterMap _).append (List.Sublist.refl _))

theorem withdrawNamed_moves (tag : Nat) (named : KeyRec → Bool) (h : Moves own work (lv + 2) s t) :
    Moves own work (lv + 2) s (withdrawNamed tag named t) :=
  accept_moves _ _ _ (h.loads (drop_ok _ _) (drop_evolves _ _ _) (drop_claims _ _))

theorem purgeNamed_moves (tag : Nat) (named : KeyRec → Bool) (h : Moves own work (lv + 2) s t) :
    Moves own work (lv + 2) s (purgeNamed tag named t) :=
  accept_moves _ _ _ (h.loads (drop_ok _ _) (drop_evolves _ _ _) (drop_claims _ _))

theorem reqWithdrawById_moves (tag id : Nat) (h : Moves own work (lv + 2) s t) :
    Moves own work (lv + 2) s (reqWithdrawById tag id t) := by
  unfold reqWithdrawById
  exact (refuse_moves _ _ _ h).ite ((refuse_moves _ _ _ h).ite (withdrawNamed_moves _ _ h))

theorem reqQueryRun_moves (tag start count : Nat) (h : Moves own work lv s t) :
    Moves own work lv s (reqQueryRun tag start count t) := by
  unfold reqQueryRun
  exact (accept_moves _ _ _ h).ite (refuse_moves _ _ _ h)

theorem reqQueryRecord_moves (tag id : Nat) (h : Moves own work lv s t) : Moves own work lv s (reqQueryRecord tag id t) := by
  unfold reqQueryRecord
  split
  · exact refuse_moves _ _ _ h
  · split
    · exact refuse_moves _ _ _ h
    · exact accept_moves _ _ _ h

/-! ## Table requests -/

theorem putProfile_ok {x : Table} (i : Fin 16) {c : Option ProfileFields} (hc : ∀ p, c = some p → profileInRange p = true)
    (h : TableOk x) : TableOk (x.putProfile i c) := by
  refine ⟨fun j p e => ?_, h.2⟩
  simp only [Table.putProfile, updAt_get] at e
  split at e
  · exact hc p e
  · exact h.1 j p e

theorem putClass_ok {x : Table} (i : Fin 8) {c : Option ClassFields} (hc : ∀ p, c = some p → classInRange p = true)
    (h : TableOk x) : TableOk (x.putClass i c) := by
  refine ⟨h.1, fun j p e => ?_⟩
  simp only [Table.putClass, updAt_get] at e
  split at e
  · exact hc p e
  · exact h.2 j p e

theorem reqProfileLoad_moves (tag slot : Nat) (p : ProfileFields) (h : Moves own work (lv + 2) s t) :
    Moves own work (lv + 2) s (reqProfileLoad tag slot p t) := by
  unfold reqProfileLoad
  split
  · exact refuse_moves _ _ _ h
  · split
    · exact refuse_moves _ _ _ h
    · next g =>
      refine (refuse_moves _ _ _ h).ite (accept_moves _ _ _ (h.slots (putProfile_ok _ ?_)))
      rintro q ⟨⟩
      simpa using g

theorem reqProfileDrop_moves (tag slot : Nat) (h : Moves own work (lv + 2) s t) :
    Moves own work (lv + 2) s (reqProfileDrop tag slot t) := by
  unfold reqProfileDrop
  split
  · exact refuse_moves _ _ _ h
  · exact (refuse_moves _ _ _ h).ite ((refuse_moves _ _ _ h).ite
      (accept_moves _ _ _ (h.slots (putProfile_ok _ (fun _ e => by simp at e)))))

theorem reqClassLoad_moves (tag id : Nat) (c : ClassFields) (h : Moves own work (lv + 2) s t) :
    Moves own work (lv + 2) s (reqClassLoad tag id c t) := by
  unfold reqClassLoad
  split
  · exact refuse_moves _ _ _ h
  · split
    · exact refuse_moves _ _ _ h
    · next g =>
      refine (refuse_moves _ _ _ h).ite (accept_moves _ _ _ (h.slots (putClass_ok _ ?_)))
      rintro q ⟨⟩
      simpa using g

theorem reqClassDrop_moves (tag id : Nat) (h : Moves own work (lv + 2) s t) :
    Moves own work (lv + 2) s (reqClassDrop tag id t) := by
  unfold reqClassDrop
  split
  · exact refuse_moves _ _ _ h
  · exact (refuse_moves _ _ _ h).ite ((refuse_moves _ _ _ h).ite
      (accept_moves _ _ _ (h.slots (putClass_ok _ (fun _ e => by simp at e)))))

end Sys2Proof.Machine
end

