-- ==== Sys2Proof/Laws/MovesStep.lean ====
section
/-! SUPPORT. Everything a step can do: a chain of moves, or one of the two resets of R182. -/

namespace Sys2Proof.Machine

open Sys2Proof
open Host (Outcome)

variable {own work : Bay → Prop} {lv : Nat} {s t : State} {b : Bay}

/-! ## The line link's events -/

theorem raise_ok {l : Link} (e : LinkError) (h : LinkOk l) : LinkOk (l.raise e) := by
  obtain ⟨a, o, c, ⟨d1, d2, d3, d4⟩, f⟩ := h
  unfold Link.raise
  dsimp only
  refine offerNotice_ok _ ⟨a, o, c, ?_, f⟩
  cases e <;> dsimp only <;> refine ⟨?_, ?_, ?_, ?_⟩ <;> first | exact bump_le _ | assumption

theorem checkFrame_ok {l : Link} (n : Nat) (taken : List Byte) (h : LinkOk l) : LinkOk (l.checkFrame n taken) := by
  unfold Link.checkFrame
  split
  · dsimp only
    split
    · exact raise_ok _ h
    · split
      · exact raise_ok _ h
      · next g =>
        obtain ⟨_, o⟩ := h
        refine ⟨?_, o⟩
        simp only [Config.inputFrames, Nat.not_le] at g
        simp only [List.length_append, List.length_singleton]
        omega
  · exact h

theorem judgeLength_ok {l : Link} (n : Nat) (h : LinkOk l) : LinkOk (l.judgeLength n) := by
  unfold Link.judgeLength
  split
  · exact h
  · exact raise_ok _ h

theorem takeByte_ok {l : Link} (byte : Byte) (h : LinkOk l) : LinkOk (l.takeByte byte) := by
  unfold Link.takeByte
  split
  · split <;> exact h
  · split
    · exact h
    · exact judgeLength_ok _ h
  · dsimp only
    split
    · exact h
    · exact checkFrame_ok _ _ h

theorem withBody_moves {α : Type} (k tag : Nat) (body : Option α) {owner : α → State → State}
    (ho : ∀ x, Moves own work (lv + 2) s (owner x t)) (h : Moves own work (lv + 2) s t) : Moves own work (lv + 2) s (withBody k tag body owner t) := by
  unfold withBody
  split
  · exact refuse_moves _ _ _ h
  · exact ho _

theorem reqReset_moves (tag scope : Nat) (h : Moves own work (lv + 2) s t) : Moves own work (lv + 2) s (reqReset tag scope t) := by
  unfold reqReset
  split
  · exact reqResetFull_moves _ h
  · exact reqResetBays_moves _ h
  · exact refuse_moves _ _ _ h

theorem reqKeyWithdraw_moves (tag : Nat) (a : StockAsk) (h : Moves own work (lv + 2) s t) : Moves own work (lv + 2) s (reqKeyWithdraw tag a t) := by
  cases a
  · exact reqWithdrawById_moves _ _ h
  · exact withdrawNamed_moves _ _ h
  · exact refuse_moves _ _ _ h
  · exact refuse_moves _ _ _ h

theorem reqKeyPurge_moves (tag : Nat) (a : StockAsk) (h : Moves own work (lv + 2) s t) : Moves own work (lv + 2) s (reqKeyPurge tag a t) := by
  cases a
  · exact refuse_moves _ _ _ h
  · exact purgeNamed_moves _ _ h
  · exact purgeNamed_moves _ _ h
  · exact refuse_moves _ _ _ h

theorem reqStockQuery_moves (tag : Nat) (a : StockAsk) (h : Moves own work (lv + 2) s t) : Moves own work (lv + 2) s (reqStockQuery tag a t) := by
  cases a
  · exact reqQueryRecord_moves _ _ h
  · exact refuse_moves _ _ _ h
  · exact accept_moves _ _ _ h
  · exact reqQueryRun_moves _ _ _ h

theorem handOver_moves (kind tag : Nat) (body : List Byte) (ho : ∀ b, own b ∧ work b) (h : Moves own work (lv + 2) s t) : Moves own work (lv + 2) s (handOver kind tag body t) := by
  unfold handOver
  split
  · exact withBody_moves _ _ _ (fun _ => reqIdent_moves _ h) h
  · exact withBody_moves _ _ _ (fun _ => reqStatus_moves _ h) h
  · exact withBody_moves _ _ _ (fun _ => reqConfigure_moves _ _ _ ho h) h
  · exact withBody_moves _ _ _ (fun _ => reqReset_moves _ _ h) h
  · exact withBody_moves _ _ _ (fun _ => reqJobStart_moves _ _ _ _ (fun b _ => ho b) h) h
  · exact withBody_moves _ _ _ (fun _ => reqJobAbort_moves _ _ (fun b _ => ho b) h) h
  · exact withBody_moves _ _ _ (fun _ => reqBayResume_moves _ _ (fun b _ => ho b) h) h
  · exact withBody_moves _ _ _ (fun _ => reqBayRelease_moves _ _ (fun b _ => ho b) h) h
  · exact withBody_moves _ _ _ (fun _ => reqBayPark_moves _ _ (fun b _ => ho b) h) h
  · exact withBody_moves _ _ _ (fun _ => reqBayUnpark_moves _ _ (fun b _ => ho b) h) h
  · exact withBody_moves _ _ _ (fun _ => reqBayQuery_moves _ _ (fun b _ => ho b) h) h
  · exact withBody_moves _ _ _ (fun _ => reqTunnelEnter_moves _ _ (fun b _ => ho b) h) h
  · exact withBody_moves _ _ _ (fun _ => reqTunnelPass_moves _ _ _ (fun b _ => ho b) h) h
  · exact withBody_moves _ _ _ (fun _ => reqTunnelExit_moves _ _ (fun b _ => ho b) h) h
  · exact withBody_moves _ _ _ (fun _ => reqSheetRead_moves _ _ _ _ _ (fun b _ => ho b) h) h
  · exact withBody_moves _ _ _ (fun _ => reqMapRead_moves _ _ _ _ _ (fun b _ => ho b) h) h
  · exact withBody_moves _ _ _ (fun _ => reqKeyLoad_moves _ _ h) h
  · exact withBody_moves _ _ _ (fun _ => reqKeyWithdraw_moves _ _ h) h
  · exact withBody_moves _ _ _ (fun _ => reqKeyPurge_moves _ _ h) h
  · exact withBody_moves _ _ _ (fun _ => reqStockQuery_moves _ _ h) h
  · exact withBody_moves _ _ _ (fun _ => reqProfileLoad_moves _ _ _ h) h
  · exact withBody_moves _ _ _ (fun _ => reqProfileDrop_moves _ _ h) h
  · exact withBody_moves _ _ _ (fun _ => reqClassLoad_moves _ _ _ h) h
  · exact withBody_moves _ _ _ (fun _ => reqClassDrop_moves _ _ h) h
  · exact refuse_moves _ _ _ h

theorem judgeFrame_moves (f : InFrame) (ho : ∀ b, own b ∧ work b) (h : Moves own work (lv + 2) s t) : Moves own work (lv + 2) s (judgeFrame f t) := by
  unfold judgeFrame
  exact (refuse_moves _ _ _ h).ite (handOver_moves _ _ _ ho h)

theorem dispatchOldest_moves (ho : ∀ b, own b ∧ work b) (h : Moves own work (lv + 2) s t) : Moves own work (lv + 2) s (dispatchOldest t) := by
  unfold dispatchOldest
  split
  · exact h
  · next f rest e =>
    split
    · next g =>
      refine judgeFrame_moves _ ho ((setEntryAside_moves h g).station (fun ⟨a, o⟩ => ⟨?_, o⟩))
      have a : (f :: rest).length ≤ 4 := e ▸ a
      simp only [List.length_cons] at a
      dsimp only
      omega
    · exact h

/-- Every bay. -/
def Everywhere (_ : Bay) : Prop := True

/-- What a command does to the blocks: a chain of moves, or a reset that leaves the queue. -/
def Did (s t : State) : Prop := Moves Everywhere Everywhere 2 s t ∨ ∃ c o, t = { State.started c with pending := s.pending, out := o }

/-- A message leaving the line is a chain of moves, or the end of a RESET FULL. -/
theorem messageSent_did : Did s (messageSent s) := by
  unfold messageSent
  split
  · exact .inl .refl
  · next m rest e =>
    dsimp only
    split
    · exact .inr ⟨_, _, rfl⟩
    · refine .inl (Moves.station (lv := 0) (Moves.out .refl) (fun ⟨a, o, c⟩ => ⟨a, ?_, c⟩))
      simp only [setOut_link, Link.occupied, e, List.length_cons] at o ⊢
      omega

/-! ## Any command -/

theorem owner_moves (k tag : Nat) {owner : State → State} (ho : ∀ u, Moves own work lv s u → Moves own work lv s (owner u)) :
    Moves own work lv s (atOwner k tag owner s) := atOwner_moves k tag ho .refl

/-- A bay command is a chain of moves at the bay it acts at that leaves the line link's own state, the keys, the slots and the
time. -/
theorem exec_bay {i : Instr} (q : isBayCommand i = true) (e : exec i s = .next t) :
    Moves (fun b => actsAt i = some b) (fun b => actsAt i = some b) 0 s t := by
  cases i <;> first | (simp [isBayCommand] at q; done) | (injection e with e; subst e)
  · exact owner_moves _ _ (fun _ => reqIdent_moves _)
  · exact owner_moves _ _ (fun _ => reqJobStart_moves _ _ _ _ (fun _ e => ⟨e, e⟩))
  · exact owner_moves _ _ (fun _ => reqJobAbort_moves _ _ (fun _ e => ⟨e, e⟩))
  · exact owner_moves _ _ (fun _ => reqBayResume_moves _ _ (fun _ e => ⟨e, e⟩))
  · exact owner_moves _ _ (fun _ => reqBayRelease_moves _ _ (fun _ e => ⟨e, e⟩))
  · exact owner_moves _ _ (fun _ => reqBayPark_moves _ _ (fun _ e => ⟨e, e⟩))
  · exact owner_moves _ _ (fun _ => reqBayUnpark_moves _ _ (fun _ e => ⟨e, e⟩))
  · exact owner_moves _ _ (fun _ => reqBayQuery_moves _ _ (fun _ e => ⟨e, e⟩))
  · exact owner_moves _ _ (fun _ => reqTunnelEnter_moves _ _ (fun _ e => ⟨e, e⟩))
  · exact owner_moves _ _ (fun _ => reqTunnelPass_moves _ _ _ (fun _ e => ⟨e, e⟩))
  · exact owner_moves _ _ (fun _ => reqTunnelExit_moves _ _ (fun _ e => ⟨e, e⟩))
  · exact owner_moves _ _ (fun _ => reqSheetRead_moves _ _ _ _ _ (fun _ e => ⟨e, e⟩))
  · exact owner_moves _ _ (fun _ => reqMapRead_moves _ _ _ _ _ (fun _ e => ⟨e, e⟩))
  · exact owner_moves _ _ (fun _ => accept_moves _ _ _)
  · exact owner_moves _ _ (fun _ => reqQueryRun_moves _ _ _)
  · exact owner_moves _ _ (fun _ => reqQueryRecord_moves _ _)
  · next b c =>
    have : Fact (actsAt (.poll b c) = some b) := ⟨rfl⟩
    exact (pollBay_moves _ .refl).ite .refl
  · next b =>
    have : Fact (actsAt (.attachTimerExpiry b) = some b) := ⟨rfl⟩
    refine Moves.ite (raiseFault_moves _ _ _ ?_) .refl
    exact Moves.job .refl id
  · exact Moves.ite (Moves.ite (placeEntry_moves (Moves.bay .refl id)) (Moves.bay .refl id)) .refl
  · next b f =>
    have : Fact (actsAt (.setAnswerReceived b f) = some b) := ⟨rfl⟩
    exact receiveSet_moves _ .refl
  · next b =>
    have : Fact (actsAt (.setRequestTimeout b) = some b) := ⟨rfl⟩
    split
    · exact .refl
    · exact (pump_moves (endRequest_moves _ _ (clearOutstanding_moves .refl))).ite .refl
  · split
    · next g => exact pump_moves (makeKeepDue_moves (keepFallsDue_alive g) .refl)
    · exact .refl
  · next b =>
    have : Fact (actsAt (.lapse b) = some b) := ⟨rfl⟩
    exact (takeLapse_moves .refl).ite .refl
  · exact (headChanged_moves .refl).ite .refl
  · next b =>
    have : Fact (actsAt (.overtimeExpiry b) = some b) := ⟨rfl⟩
    exact (takeRevocation_moves (releaseAdmission_moves .refl)).ite .refl
  · exact Moves.gov .refl (fun ⟨a, c⟩ => ⟨a.sublist List.filter_sublist, fun x m => c x (List.mem_of_mem_filter m)⟩)
  · refine Moves.ite (chooseEntry_moves ?_) .refl
    exact Moves.probe .refl (fun _ g => g)
  · next b f =>
    have : Fact (actsAt (.probeMessageReceived b f) = some b) := ⟨rfl⟩
    exact receiveProbe_moves _ .refl
  · next b =>
    have k : Moves (fun c => actsAt (.probeRequestTimeout b) = some c) (fun c => actsAt (.probeRequestTimeout b) = some c) 0 s
        (s.setProbe b { s.probe b with outstanding := none, fault := true }) := Moves.probe .refl (fun _ g => g)
    split
    · dsimp only
      split
      · exact k
      · next c _ =>
        split
        · next g =>
          have : Fact (actsAt (.probeRequestTimeout b) = some c.entry.bay) := ⟨by rw [g]; rfl⟩
          exact failCapture_moves _ _ k
        · exact k
    · exact .refl
  · next b =>
    have : Fact (actsAt (.solveDone b) = some b) := ⟨rfl⟩
    split
    · exact .refl
    · dsimp only
      split
      · exact Moves.solve .refl
      · exact (takeSolve_moves _ _ (Moves.solve .refl)).ite (Moves.solve .refl)

/-- Everything a command can do. -/
theorem exec_did {i : Instr} (e : exec i s = .next t) : Did s t := by
  by_cases q : isBayCommand i = true
  · exact .inl ((exec_bay q e).up (fun _ _ => trivial) (fun _ _ => trivial))
  · cases i <;> first | (simp [isBayCommand] at q; done) | (injection e with e; subst e)
    · exact .inr ⟨.powerOn, LinesOut.reset, rfl⟩
    · exact .inl (Moves.ite .refl (Moves.station (lv := 0) .refl (takeByte_ok _)))
    · refine .inl (Moves.ite .refl (Moves.station (lv := 0) .refl (fun h => raise_ok _ ?_)))
      exact h
    · exact .inl (dispatchOldest_moves (lv := 0) (fun _ => ⟨trivial, trivial⟩) .refl)
    · exact messageSent_did
    · exact .inl (owner_moves _ _ (fun _ => reqStatus_moves (lv := 0) _))
    · exact .inl (owner_moves _ _ (fun _ => reqConfigure_moves (lv := 0) _ _ _ (fun _ => ⟨trivial, trivial⟩)))
    · exact .inl (owner_moves _ _ (fun _ => reqResetFull_moves (lv := 0) _))
    · exact .inl (owner_moves _ _ (fun _ => reqResetBays_moves (lv := 0) _))
    · exact .inl (owner_moves _ _ (fun _ => reqKeyLoad_moves (lv := 0) _ _))
    · exact .inl (owner_moves _ _ (fun _ => reqWithdrawById_moves (lv := 0) _ _))
    · exact .inl (owner_moves _ _ (fun _ => withdrawNamed_moves (lv := 0) _ _))
    · exact .inl (owner_moves _ _ (fun _ => purgeNamed_moves (lv := 0) _ _))
    · exact .inl (owner_moves _ _ (fun _ => purgeNamed_moves (lv := 0) _ _))
    · exact .inl (owner_moves _ _ (fun _ => reqProfileLoad_moves (lv := 0) _ _ _))
    · exact .inl (owner_moves _ _ (fun _ => reqProfileDrop_moves (lv := 0) _ _))
    · exact .inl (owner_moves _ _ (fun _ => reqClassLoad_moves (lv := 0) _ _ _))
    · exact .inl (owner_moves _ _ (fun _ => reqClassDrop_moves (lv := 0) _ _))

theorem tick_moves : Moves Everywhere Everywhere 2 s (tick s) := by
  unfold tick
  split
  · exact .refl
  · exact .single (.time _ _ (Nat.le_succ _))

/-- Everything a step can do. -/
theorem step_did (e : step s = .next t) : ∃ q, Did { s with pending := q } t := by
  unfold step at e
  split at e
  · injection e with e
    exact ⟨s.pending, .inl (e ▸ tick_moves)⟩
  · next c rest _ => exact ⟨rest, exec_did e⟩

/-- A command leaves the queue alone. -/
theorem exec_pending {i : Instr} (e : exec i s = .next t) : t.pending = s.pending := by
  rcases exec_did e with h | ⟨c, o, rfl⟩
  · exact h.pending_eq
  · rfl

/-! ## Invariants -/

/-- A property that every move of a level keeps is kept by a chain of such moves. -/
theorem Moves.keeps {P : State → Prop} (hm : ∀ {a c}, Move own work lv a c → P a → P c) (k : Moves own work lv s t) (h : P s) : P t :=
  Relation.ReflTransGen.rec (motive := fun t _ => P t) h (fun _ m ih => hm m ih) k

/-- A property of the blocks that every move keeps and every reset has is kept by every step. -/
theorem step_keeps {P : State → Prop} (hq : ∀ a q, P a → P { a with pending := q }) (hm : ∀ {a c}, Move Everywhere Everywhere 2 a c → P a → P c)
    (hr : ∀ c q o, P { State.started c with pending := q, out := o }) (e : step s = .next t) (h : P s) : P t := by
  obtain ⟨q, k | ⟨c, o, rfl⟩⟩ := step_did e
  · exact k.keeps hm (hq s q h)
  · exact hr c _ o

end Sys2Proof.Machine
end

