-- ==== Sys2Proof/Laws/Frame.lean ====
section
/-! SUPPORT. What a chain of moves of level 0 leaves alone: the line link's own state and every message already placed, the
keys, the slots, the time, and every bay at which it may not act. -/

namespace Sys2Proof.Machine

open Sys2Proof

variable {own work : Bay → Prop} {s t u : State} {b : Bay}

theorem SameLine.trans {a c d : Link} (h : SameLine a c) (k : SameLine c d) : SameLine a d := by
  obtain ⟨h1, h2, h3, h4, h5, h6⟩ := h
  obtain ⟨k1, k2, k3, k4, k5, k6⟩ := k
  exact ⟨k1.trans h1, k2.trans h2, k3.trans h3, k4.trans h4, k5.trans h5, h6.trans k6⟩

theorem SameCore.refl (r : BayRec) : SameCore r r := ⟨rfl, rfl, rfl, rfl, rfl, rfl⟩

theorem SameCore.trans {a c d : BayRec} (h : SameCore a c) (k : SameCore c d) : SameCore a d := by
  obtain ⟨h1, h2, h3, h4, h5, h6⟩ := h
  obtain ⟨k1, k2, k3, k4, k5, k6⟩ := k
  exact ⟨k1.trans h1, k2.trans h2, k3.trans h3, k4.trans h4, k5.trans h5, k6.trans h6⟩

theorem SameKeys.refl (k : Stock) : SameKeys k k := ⟨rfl, rfl, rfl⟩

theorem SameKeys.trans {a c d : Stock} (h : SameKeys a c) (k : SameKeys c d) : SameKeys a d :=
  ⟨k.1.trans h.1, k.2.1.trans h.2.1, k.2.2.trans h.2.2⟩

theorem SameSlots.refl (x : Table) : SameSlots x x := ⟨fun _ => rfl, fun _ => rfl⟩

theorem Moves.sameLine (h : Moves own work 0 s t) : SameLine s.link t.link := by
  induction h with
  | refl => exact SameLine.refl _
  | tail _ m ih =>
    cases m <;> first | exact ih | (refine ih.trans ?_; assumption)

theorem Moves.sameKeys (h : Moves own work 0 s t) : SameKeys s.stock t.stock := by
  induction h with
  | refl => exact SameKeys.refl _
  | tail _ m ih =>
    cases m <;> first | exact ih | (refine ih.trans ?_; assumption)

theorem Moves.sameSlots (h : Moves own work 0 s t) : SameSlots s.table t.table := by
  induction h with
  | refl => exact SameSlots.refl _
  | tail _ m ih =>
    cases m <;> first | exact ih | (refine ih.trans ?_; assumption)

theorem Moves.now_eq (h : Moves own work 0 s t) : t.now = s.now := by
  induction h with
  | refl => rfl
  | tail _ m ih => rw [← ih]; cases m <;> rfl

/-- A bay at which no state may change keeps its state, from-state, fault list and identity. -/
theorem Moves.core (h : Moves own work 0 s t) (n : ¬ own b) : SameCore (s.bay b) (t.bay b) := by
  induction h with
  | refl => exact SameCore.refl _
  | tail _ m ih =>
    cases m <;> first
      | exact ih
      | (refine ih.trans ?_; rw [setBay_bay]; split
         · next e => subst e; first | assumption | exact absurd ‹_› n
         · exact SameCore.refl _)

/-- A bay at which no state may change keeps link-alive. -/
theorem Moves.alive (h : Moves own work 0 s t) (n : ¬ own b) : (t.port b).linkAlive = (s.port b).linkAlive := by
  induction h with
  | refl => rfl
  | tail _ m ih =>
    rw [← ih]
    cases m <;> first
      | rfl
      | (rw [setPort_port]; split
         · next e => subst e; first | assumption | exact absurd ‹_› n
         · rfl)

/-- A bay at which no work may go on keeps its job fields but for the current key ID. -/
theorem Moves.job_eq (h : Moves own work 0 s t) (n : ¬ own b) (w : ¬ work b) :
    (t.bay b).job.map Job.keyless = (s.bay b).job.map Job.keyless := by
  induction h with
  | refl => rfl
  | tail _ m ih =>
    rw [← ih]
    cases m <;> first
      | rfl
      | (rw [setBay_bay]; split
         · next e => subst e; first | assumption | exact absurd ‹_› n | exact absurd ‹_› w
         · rfl)

/-- A bay at which no work may go on keeps its attach timer. -/
theorem Moves.attach (h : Moves own work 0 s t) (n : ¬ own b) (w : ¬ work b) :
    (t.bay b).attachTimer = (s.bay b).attachTimer := by
  induction h with
  | refl => rfl
  | tail _ m ih =>
    rw [← ih]
    cases m <;> first
      | rfl
      | (rw [setBay_bay]; split
         · next e => subst e; first | assumption | exact absurd ‹_› n | exact absurd ‹_› w
         · rfl)

/-- A bay at which no work may go on keeps its poller. -/
theorem Moves.poller_eq (h : Moves own work 0 s t) (w : ¬ work b) : t.poller b = s.poller b := by
  induction h with
  | refl => rfl
  | tail _ m ih =>
    rw [← ih]
    cases m <;> first
      | rfl
      | (rw [setPoller_poller]; split
         · next e => subst e; exact absurd ‹_› w
         · rfl)

end Sys2Proof.Machine
end

