-- ==== Sys2Proof/Laws/Requests.lean ====
section
/-! SUPPORT. What a request at its owner comes to: with an entry free the owner runs on the state with the entry set aside, and
a reply placed there leaves the transmit order one reply longer and nothing else changed. -/

namespace Sys2Proof.Machine

open Sys2Proof
open Host (Outcome)

variable {s t : State} {b : Bay} {kind tag : Nat}

theorem canDispatch_iff (s : State) : canDispatch s = true ↔ s.entryFree := by
  unfold canDispatch
  rw [Bool.and_eq_true, decide_eq_true_iff, Bool.not_eq_true']
  exact Iff.rfl

theorem atOwner_eq {owner : State → State} (h : s.entryFree) (ht : 1 ≤ tag) :
    atOwner kind tag owner s = owner (setEntryAside s) := by
  have ht' : tag ≠ 0 := by omega
  simp [atOwner, (canDispatch_iff s).mpr h, ht']

theorem atOwner_tag0 {owner : State → State} (h : s.entryFree) :
    atOwner kind 0 owner s = placeReply kind 0 .badField [] (setEntryAside s) := by
  simp [atOwner, (canDispatch_iff s).mpr h]

theorem atOwner_wait {owner : State → State} (h : ¬ s.entryFree) : atOwner kind tag owner s = s := by
  simp only [← canDispatch_iff] at h
  simp [atOwner, h]

theorem bayOf_val (b : Bay) : bayOf b.val = some b := by simp [bayOf]

theorem bayOf_none {n : Nat} (h : 4 ≤ n) : bayOf n = none := by simp [bayOf, h]

theorem withBay_val (f : Bay → State → State) : withBay kind tag b.val f s = f b s := by simp [withBay, bayOf_val]

theorem withBay_none {n : Nat} (h : 4 ≤ n) (f : Bay → State → State) : withBay kind tag n f s = refuse kind tag .badField s := by
  simp [withBay, bayOf_none h]

/-- A reply placed where an entry is set aside. -/
theorem reply_aside (h : s.link.resetPending = false) (st : Status) (body : List Byte) :
    placeReply kind tag st body (setEntryAside s) = s.withReply kind tag st body := by
  have e : (setEntryAside s).link.resetPending = false := h
  simp only [placeReply, e, Bool.false_eq_true, if_false]
  rfl

theorem refuse_aside (h : s.link.resetPending = false) (st : Status) :
    refuse kind tag st (setEntryAside s) = s.withReply kind tag st [] := reply_aside h st []

theorem accept_aside (h : s.link.resetPending = false) (body : List Byte) :
    accept kind tag body (setEntryAside s) = s.withReply kind tag .ok body := reply_aside h .ok body

/-- A request at its owner answers what the owner does with the entry set aside. -/
theorem owner_next {owner : State → State} {u : State} (f : s.entryFree) (ht : 1 ≤ tag) (h : owner (setEntryAside s) = u) :
    (Outcome.next (atOwner kind tag owner s) : Outcome State Fault Refusal) = .next u :=
  congrArg _ ((atOwner_eq f ht).trans h)

/-- A request that names a bay answers what it does at that bay. -/
theorem bay_next {f : Bay → State → State} {u : State} (e : s.entryFree) (ht : 1 ≤ tag) (h : f b (setEntryAside s) = u) :
    (Outcome.next (atOwner kind tag (withBay kind tag b.val f) s) : Outcome State Fault Refusal) = .next u :=
  owner_next e ht ((withBay_val _).trans h)

end Sys2Proof.Machine
end

