-- ==== Sys2Proof/Laws/Place.lean ====
section
/-! SUPPORT. What placing a request on a set port leaves alone: everything but the port, the bay's sent counter and showing
flag, its map area, sequencer, admission and key records, and the line driven. -/

namespace Sys2Proof.Machine

open Sys2Proof

/-- A bay's record but for the sent counter and the showing flag. -/
def SameButSent (r r' : BayRec) : Prop := r' = { r with requests := r'.requests, showing := r'.showing }

theorem SameButSent.refl (r : BayRec) : SameButSent r r := rfl

theorem SameButSent.trans {a c d : BayRec} (h : SameButSent a c) (k : SameButSent c d) : SameButSent a d := by
  unfold SameButSent at *
  rw [k, h]

theorem SameButSent.state {r r' : BayRec} (h : SameButSent r r') : r'.state = r.state := by rw [h]
theorem SameButSent.origin {r r' : BayRec} (h : SameButSent r r') : r'.origin = r.origin := by rw [h]
theorem SameButSent.faults {r r' : BayRec} (h : SameButSent r r') : r'.faults = r.faults := by rw [h]
theorem SameButSent.overflow {r r' : BayRec} (h : SameButSent r r') : r'.overflow = r.overflow := by rw [h]
theorem SameButSent.firstKeep {r r' : BayRec} (h : SameButSent r r') : r'.firstKeep = r.firstKeep := by rw [h]
theorem SameButSent.identity {r r' : BayRec} (h : SameButSent r r') : r'.identity = r.identity := by rw [h]
theorem SameButSent.job {r r' : BayRec} (h : SameButSent r r') : r'.job = r.job := by rw [h]
theorem SameButSent.discarded {r r' : BayRec} (h : SameButSent r r') : r'.discarded = r.discarded := by rw [h]
theorem SameButSent.adjustments {r r' : BayRec} (h : SameButSent r r') : r'.adjustments = r.adjustments := by rw [h]
theorem SameButSent.overtimes {r r' : BayRec} (h : SameButSent r r') : r'.overtimes = r.overtimes := by rw [h]
theorem SameButSent.attachTimer {r r' : BayRec} (h : SameButSent r r') : r'.attachTimer = r.attachTimer := by rw [h]
theorem SameButSent.settleTimer {r r' : BayRec} (h : SameButSent r r') : r'.settleTimer = r.settleTimer := by rw [h]
theorem SameButSent.showPending {r r' : BayRec} (h : SameButSent r r') : r'.showPending = r.showPending := by rw [h]
theorem SameButSent.entry {r r' : BayRec} (h : SameButSent r r') : r'.entry = r.entry := by rw [h]

/-- What a request sent or placed at one bay leaves alone. -/
structure SentAt (b : Bay) (s t : State) : Prop where
  pending : t.pending = s.pending
  now : t.now = s.now
  link : t.link = s.link
  pollers : t.pollers = s.pollers
  xfers : t.xfers = s.xfers
  solves : t.solves = s.solves
  engine : t.engine = s.engine
  table : t.table = s.table
  bay : ∀ c, SameButSent (s.bay c) (t.bay c)
  bay_ne : ∀ c, c ≠ b → t.bay c = s.bay c
  port_ne : ∀ c, c ≠ b → t.port c = s.port c
  seq_ne : ∀ c, c ≠ b → t.seq c = s.seq c
  area_ne : ∀ c, c ≠ b → t.area c = s.area c
  area_none : (s.area b).frame = none → t.area b = s.area b
  rows : (t.area b).rows = (s.area b).rows
  waiting : t.stock.waiting = s.stock.waiting

theorem SentAt.refl (b : Bay) (s : State) : SentAt b s s := by
  constructor <;> first | rfl | (intros; rfl)

theorem SentAt.trans {b : Bay} {s t u : State} (h : SentAt b s t) (k : SentAt b t u) : SentAt b s u where
  pending := k.pending.trans h.pending
  now := k.now.trans h.now
  link := k.link.trans h.link
  pollers := k.pollers.trans h.pollers
  xfers := k.xfers.trans h.xfers
  solves := k.solves.trans h.solves
  engine := k.engine.trans h.engine
  table := k.table.trans h.table
  bay c := (h.bay c).trans (k.bay c)
  bay_ne c n := (k.bay_ne c n).trans (h.bay_ne c n)
  port_ne c n := (k.port_ne c n).trans (h.port_ne c n)
  seq_ne c n := (k.seq_ne c n).trans (h.seq_ne c n)
  area_ne c n := (k.area_ne c n).trans (h.area_ne c n)
  area_none e := (k.area_none (by rw [h.area_none e]; exact e)).trans (h.area_none e)
  rows := k.rows.trans h.rows
  waiting := k.waiting.trans h.waiting

variable {b : Bay} {s : State}

theorem SentAt.setPort (p : Port) : SentAt b s (s.setPort b p) := by
  constructor <;> first
    | rfl
    | (intro c n; exact setPort_port_ne _ _ n)
    | (intros; rfl)

theorem SentAt.setBay {r : BayRec} (h : SameButSent (s.bay b) r) : SentAt b s (s.setBay b r) := by
  constructor <;> first
    | rfl
    | (intro c n; exact setBay_bay_ne _ _ n)
    | (intros; rfl)
    | (intro c; rw [setBay_bay]; split
       · next e => subst e; exact h
       · exact SameButSent.refl _)

theorem SentAt.setSeq (q : Sequencer) : SentAt b s (s.setSeq b q) := by
  constructor <;> first
    | rfl
    | (intro c n; exact setSeq_seq_ne _ _ n)
    | (intros; rfl)

theorem SentAt.setOut (o : LinesOut) : SentAt b s (s.setOut o) := by
  constructor <;> first | rfl | (intros; rfl)

theorem SentAt.setGov (g : Governor) : SentAt b s (s.setGov g) := by
  constructor <;> first | rfl | (intros; rfl)

theorem SentAt.modify (id : Nat) (f : KeyRec → KeyRec) : SentAt b s (s.setStock (s.stock.modify id f)) := by
  constructor <;> first | rfl | (intros; rfl)

theorem SentAt.setFrameState (st : FrameState) : SentAt b s (setFrameState b st s) := by
  unfold Machine.setFrameState
  split
  · exact SentAt.refl b s
  · next f e =>
    constructor <;> first
      | rfl
      | (intro c n; exact setArea_area_ne _ _ n)
      | (intro h; rw [e] at h; exact absurd h (by simp))
      | (rw [setArea_area_self])
      | (intros; rfl)

/-- What sending does beside the port. -/
theorem sendEffect_at (r : PortReq) : SentAt b s (sendEffect b r s) := by
  unfold sendEffect
  split <;> try exact SentAt.refl b s
  · exact SentAt.setBay rfl
  · split
    · exact SentAt.setGov _
    · exact SentAt.refl b s
  · split
    · exact SentAt.setGov _
    · exact SentAt.refl b s
  · dsimp only
    split
    · exact SentAt.setSeq _
    · split
      · exact (SentAt.setSeq _).trans (SentAt.setFrameState _)
      · exact SentAt.setSeq _
  · split
    · exact SentAt.refl b s
    · exact SentAt.modify _ _

/-- Sending leaves the governor as it is but for an admission that the request ends (R58, R69). -/
theorem sendEffect_gov (r : PortReq) :
    (sendEffect b r s).gov = if r.endsAdmission then (releaseAdmission b s).gov else s.gov := by
  obtain ⟨w, o, body⟩ := r
  cases w with
  | dark => unfold sendEffect; dsimp only; split <;> rfl
  | forwarded k => unfold sendEffect; dsimp only; split <;> rfl
  | openSection id =>
    unfold sendEffect setConfirmed; dsimp only
    split
    · rfl
    · split
      · unfold Machine.setFrameState
        split <;> rfl
      · rfl
  | storeKey k last =>
    cases k with
    | zero => unfold sendEffect; dsimp only; split <;> rfl
    | succ => rfl
  | _ => rfl

theorem driveSet_at (bytes : List Byte) : SentAt b s (driveSet b bytes s) := (SentAt.setOut _).trans (SentAt.setBay rfl)

theorem send_at (r : PortReq) : SentAt b s (send b r s) :=
  ((SentAt.setPort _).trans (driveSet_at _)).trans (sendEffect_at r)

theorem pump_at : SentAt b s (pump b s) := by
  unfold pump
  split
  · exact SentAt.refl b s
  · exact (SentAt.setPort _).trans (send_at _)

/-- Everything placing a request does stays at its bay. -/
theorem place_at (r : PortReq) : SentAt b s (place b r s) := (SentAt.setPort _).trans pump_at

/-! ## What sending does at the port -/

theorem sendEffect_ports (r : PortReq) : (sendEffect b r s).ports = s.ports := by
  unfold sendEffect setConfirmed
  split <;> try rfl
  · split <;> rfl
  · split <;> rfl
  · dsimp only
    split
    · rfl
    · split
      · unfold Machine.setFrameState
        split <;> rfl
      · rfl
  · split <;> rfl

theorem sendEffect_out (r : PortReq) : (sendEffect b r s).out = s.out := by
  unfold sendEffect setConfirmed
  split <;> try rfl
  · split <;> rfl
  · split <;> rfl
  · dsimp only
    split
    · rfl
    · split
      · unfold Machine.setFrameState
        split <;> rfl
      · rfl
  · split <;> rfl

/-- The port after a request is sent on it. -/
theorem send_port (r : PortReq) : (send b r s).port b =
    { (s.port b).sending s.now r with
      outstanding := some { req := r, deadline := s.now + r.bytes.length * 200 + ms (answerTimeoutMs r.what.kind) } } := by
  have e : (send b r s).port b = _ := congrFun (congrArg Vector.get (sendEffect_ports r)) b
  rw [e]
  exact setPort_port_self _ _ _

/-- The frame a request puts on the line. -/
theorem send_out (r : PortReq) : (send b r s).out.sptx.get b = r.bytes := by
  unfold send
  rw [sendEffect_out]
  exact (updAt_get _ _ _ _).trans (if_pos rfl)

/-- The governor after a request is sent (R69). -/
theorem send_gov (r : PortReq) : (send b r s).gov = if r.endsAdmission then (releaseAdmission b s).gov else s.gov := by
  unfold send; rw [sendEffect_gov]; rfl

theorem send_sent (r : PortReq) : SentNow b r s (send b r s) := ⟨by rw [send_port], send_out r⟩

/-- A free port sends the request placed on it. -/
theorem free_next {p : Port} (h : p.free) (r : PortReq) : ({ p with queue := p.queue ++ [r] } : Port).next = some (r, []) := by
  obtain ⟨p1, p2, p3, p4, p5⟩ := h
  simp [Port.next, p1, p2, p3, p4, p5]

theorem place_free (h : (s.port b).free) (r : PortReq) : place b r s = send b r s := by
  have q : (s.port b).queue = [] := h.2.2.2.1
  unfold place pump
  rw [setPort_port_self, free_next h r]
  dsimp only
  rw [setPort_setPort, show ({ s.port b with queue := [] } : Port) = s.port b by rw [← q], setPort_self]

end Sys2Proof.Machine
end

