-- ==== Sys2Proof/Laws/Beside.lean ====
section
/-! SUPPORT. What the key stock's work for one bay, and a notice about it, leave alone at every other bay: the bay's record, port,
sequencer, area and transfer, its pending solve, its place in the waiting list and its admission, and the capture engine. -/

namespace Sys2Proof.Machine

open Sys2Proof

/-- What work at one bay leaves alone elsewhere. -/
structure Beside (c : Bay) (s t : State) : Prop where
  now : t.now = s.now
  solves : t.solves = s.solves
  pollers : t.pollers = s.pollers
  bay : ∀ b, b ≠ c → t.bay b = s.bay b
  port : ∀ b, b ≠ c → t.port b = s.port b
  seq : ∀ b, b ≠ c → t.seq b = s.seq b
  area : ∀ b, b ≠ c → t.area b = s.area b
  xfer : ∀ b, b ≠ c → t.xfer b = s.xfer b
  held : ∀ h ∈ t.gov.held, h ∈ s.gov.held
  waiting : ∀ w ∈ t.stock.waiting, w ∈ s.stock.waiting ∨ w.bay = c
  line : SameLine s.link t.link
  table : t.table = s.table
  engine : t.engine = s.engine

variable {c : Bay} {s t u : State}

theorem Beside.refl (c : Bay) (s : State) : Beside c s s := by
  constructor <;> first | rfl | exact fun _ h => h | exact fun _ h => .inl h | (intros; rfl) | exact SameLine.refl _

theorem Beside.trans (h : Beside c s t) (k : Beside c t u) : Beside c s u where
  now := k.now.trans h.now
  solves := k.solves.trans h.solves
  pollers := k.pollers.trans h.pollers
  bay b n := (k.bay b n).trans (h.bay b n)
  port b n := (k.port b n).trans (h.port b n)
  seq b n := (k.seq b n).trans (h.seq b n)
  area b n := (k.area b n).trans (h.area b n)
  xfer b n := (k.xfer b n).trans (h.xfer b n)
  held x m := h.held x (k.held x m)
  waiting x m := (k.waiting x m).elim (h.waiting x) .inr
  line := h.line.trans k.line
  table := k.table.trans h.table
  engine := k.engine.trans h.engine

theorem Beside.setBay (r : BayRec) : Beside c s (s.setBay c r) := by
  constructor <;> first
    | rfl | exact fun _ h => h | exact fun _ h => .inl h | exact fun b n => setBay_bay_ne _ _ n | (intros; rfl) | exact SameLine.refl _

theorem Beside.setPort (p : Port) : Beside c s (s.setPort c p) := by
  constructor <;> first
    | rfl | exact fun _ h => h | exact fun _ h => .inl h | exact fun b n => setPort_port_ne _ _ n | (intros; rfl) | exact SameLine.refl _

theorem Beside.setXfer (x : Xfer) : Beside c s (s.setXfer c x) := by
  constructor <;> first
    | rfl | exact fun _ h => h | exact fun _ h => .inl h | exact fun b n => setXfer_xfer_ne _ _ n | (intros; rfl) | exact SameLine.refl _

theorem Beside.records (k : List KeyRec) (n : Nat) : Beside c s (s.setStock { s.stock with records := k, nextSeq := n }) := by
  constructor <;> first
    | rfl | exact fun _ h => h | exact fun _ h => .inl h | (intros; rfl) | exact SameLine.refl _

theorem Beside.link {l : Link} (h : SameLine s.link l) : Beside c s (s.setLink l) := by
  constructor <;> first
    | rfl | exact fun _ h => h | exact fun _ h => .inl h | exact h | (intros; rfl)

theorem Beside.out (o : LinesOut) : Beside c s (s.setOut o) := by
  constructor <;> first
    | rfl | exact fun _ h => h | exact fun _ h => .inl h | (intros; rfl) | exact SameLine.refl _

theorem sendEffect_held (r : PortReq) : ∀ h ∈ (sendEffect c r s).gov.held, h ∈ s.gov.held := by
  intro h m
  unfold sendEffect setConfirmed at m
  split at m <;> try exact m
  · split at m
    · exact List.mem_of_mem_filter m
    · exact m
  · split at m
    · exact List.mem_of_mem_filter m
    · exact m
  · dsimp only at m
    split at m
    · exact m
    · split at m
      · unfold Machine.setFrameState at m
        split at m <;> exact m
      · exact m
  · split at m <;> exact m

theorem send_beside (r : PortReq) : Beside c s (send c r s) := by
  have a := send_at (b := c) (s := s) r
  exact {
    now := a.now, solves := a.solves, pollers := a.pollers, bay := a.bay_ne, port := a.port_ne, seq := a.seq_ne
    area := a.area_ne
    xfer := fun b _ => congrFun (congrArg Vector.get a.xfers) b
    held := sendEffect_held r
    waiting := fun w m => .inl (by rw [a.waiting] at m; exact m)
    line := by rw [a.link]; exact SameLine.refl _
    table := a.table
    engine := a.engine }

theorem pump_beside : Beside c s (pump c s) := by
  unfold pump
  split
  · exact Beside.refl c s
  · exact (Beside.setPort _).trans (send_beside _)

theorem place_beside (r : PortReq) : Beside c s (place c r s) := (Beside.setPort _).trans pump_beside

theorem placeNotice_beside (n : Notice) : Beside c s (placeNotice n s) := by
  unfold placeNotice
  split
  · exact Beside.refl c s
  · exact Beside.link (offerNotice_same _ _)

theorem bayNotice_beside (b : Bay) (n : Notice) : Beside c s (bayNotice b n s) := by
  unfold bayNotice
  split
  · exact Beside.refl c s
  · exact placeNotice_beside n

theorem modJob_beside (f : Job → Job) : Beside c s (s.modJob c f) := Beside.setBay _

theorem modify_beside (id : Nat) (f : KeyRec → KeyRec) : Beside c s (s.setStock (s.stock.modify id f)) := Beside.records _ _

theorem startTransfer_beside : Beside c s (startTransfer c s).state := by
  unfold startTransfer
  split
  · exact Beside.refl c s
  · split
    · exact Beside.refl c s
    · split
      · exact Beside.refl c s
      · dsimp only
        split
        · exact (Beside.setXfer _).trans (place_beside _)
        · exact (((modJob_beside _).trans (Beside.setXfer _)).trans (bayNotice_beside _ _)).trans (modify_beside _ _)

theorem takeReservation_beside (id : Nat) : Beside c s (takeReservation c id s).state := by
  have k : Beside c s (withdraw c PortReq.isHold (s.modJob c (fun j => { j with keyId := some id }))) :=
    (modJob_beside _).trans (Beside.setPort _)
  unfold takeReservation
  dsimp only
  split
  · exact k.trans startTransfer_beside
  · split
    · exact k
    · exact k.trans (place_beside _)
  · exact k.trans (Beside.setPort _)
  · exact k

theorem joinWaiting_beside (cls : Nat) (region : Triple) : Beside c s (joinWaiting c cls region s) := by
  refine Beside.trans ?_ ((bayNotice_beside _ _).trans (place_beside _))
  constructor <;> first
    | rfl | exact fun _ h => h | (intros; rfl) | exact SameLine.refl _
    | (intro w m; rcases List.mem_append.mp m with m | m
       · exact .inl m
       · rw [List.mem_singleton.mp m]; exact .inr rfl)

theorem askKey_beside (fuel : Nat) : Beside c s (askKey fuel c s) := by
  induction fuel generalizing s with
  | zero => exact Beside.refl c s
  | succ n ih =>
    unfold askKey
    split
    · exact Beside.refl c s
    · split
      · exact Beside.refl c s
      · split
        · exact joinWaiting_beside _ _
        · next k _ =>
          have m : Beside c s (takeReservation c k.keyId (reserve c k.keyId s)).state :=
            (modify_beside _ _).trans (takeReservation_beside _)
          split
          · next e => rw [e] at m; exact m
          · next e => rw [e] at m; exact m.trans ih

theorem afterStart_beside (x : Started) (h : Beside c s x.state) : Beside c s (afterStart c x) := by
  cases x
  · exact h
  · exact h.trans (askKey_beside _)

theorem leaveWaiting_beside : Beside c s (leaveWaiting c s) := by
  constructor <;> first
    | rfl | exact fun _ h => h | (intros; rfl) | exact SameLine.refl _ | exact fun w m => .inl (List.mem_of_mem_filter m)

theorem giveTo_beside (id : Nat) : Beside c s (giveTo c id s) := by
  constructor <;> first
    | rfl | exact fun _ h => h | (intros; rfl) | exact SameLine.refl _ | exact fun w m => .inl (List.mem_of_mem_filter m)

/-- The bay a returned or loaded key is offered to. -/
theorem offer_beside (id : Nat) : offer id s = s ∨ ∃ w ∈ s.stock.waiting, Beside w.bay s (offer id s) := by
  unfold offer
  split
  · exact .inl rfl
  · split
    · exact .inl rfl
    · next w e =>
      refine .inr ⟨w, List.mem_of_find?_eq_some e, ?_⟩
      have k : Beside w.bay s (giveTo w.bay id s) := giveTo_beside _
      dsimp only
      split
      · exact afterStart_beside _ (k.trans (takeReservation_beside _))
      · exact k

end Sys2Proof.Machine
end

