-- ==== Sys2Proof/Laws/Cleanup.lean ====
section
/-! SUPPORT. What cleanup in its fault and abort form leaves behind at its own bay: no settle timer, no capture entry, no solve,
no admission, no place in the waiting list (R25, R26). -/

namespace Sys2Proof.Machine

open Sys2Proof

theorem chooseEntry_bays (s : State) : (chooseEntry s).bays = s.bays ∧ (chooseEntry s).gov = s.gov ∧
    (chooseEntry s).solves = s.solves ∧ (chooseEntry s).stock = s.stock := by
  unfold chooseEntry
  split
  · exact ⟨rfl, rfl, rfl, rfl⟩
  · split
    · exact ⟨rfl, rfl, rfl, rfl⟩
    · unfold takeEntry; split <;> exact ⟨rfl, rfl, rfl, rfl⟩

theorem clearRow_bays (b : Bay) (r : Nat) (s : State) : (clearRow b r s).bays = s.bays ∧ (clearRow b r s).gov = s.gov ∧
    (clearRow b r s).solves = s.solves := by
  unfold clearRow; split <;> exact ⟨rfl, rfl, rfl⟩
theorem clearOwnRow_bays (b : Bay) (s : State) : (clearOwnRow b s).bays = s.bays ∧ (clearOwnRow b s).gov = s.gov ∧
    (clearOwnRow b s).solves = s.solves := by
  unfold clearOwnRow; split
  · exact ⟨rfl, rfl, rfl⟩
  · split
    · exact ⟨rfl, rfl, rfl⟩
    · exact clearRow_bays _ _ _
theorem removeEntry_bays (b : Bay) (s : State) : (removeEntry b s).bays = s.bays ∧ (removeEntry b s).gov = s.gov ∧
    (removeEntry b s).solves = s.solves := by
  unfold removeEntry; split
  · have := chooseEntry_bays (endCapture b (clearProbeReq b s)); exact ⟨this.1, this.2.1, this.2.2.1⟩
  · exact ⟨rfl, rfl, rfl⟩

/-- A stopped key transfer is HALTED while a request of it is outstanding, else IDLE with no key (R153, R154 item 4). -/
theorem stopXfer_gives (b : Bay) (s : State) :
    ((s.port b).outIs PortReq.isKeyTransfer = true → (stopXfer b s).xfer b = { s.xfer b with phase := .halted }) ∧
    ((s.port b).outIs PortReq.isKeyTransfer = false → (stopXfer b s).xfer b = Xfer.reset) := by
  refine ⟨fun h => ?_, fun h => ?_⟩ <;> simp [stopXfer, h, idleXfer]

/-- The first three items of cleanup leave no settle timer, no capture entry, no solve and no admission (R25). -/
theorem withdrawClaims_gives (b : Bay) (s : State) : let t := withdrawClaims b s
    (t.bay b).settleTimer = none ∧ (t.bay b).entry = none ∧ t.solve b = none ∧ (∀ h ∈ t.gov.held, h.bay ≠ b) := by
  unfold withdrawClaims
  set u := releaseAdmission b (withdrawRequest b s)
  have hu : ∀ h ∈ u.gov.held, h.bay ≠ b := by
    intro h m
    have := List.of_mem_filter m
    simpa using this
  have e : ((withdrawEntry b u).bay b).entry = none ∧ (withdrawEntry b u).gov = u.gov := by
    unfold withdrawEntry
    split
    · next e => exact ⟨e, rfl⟩
    · have h1 := removeEntry_bays b (clearOwnRow b (holdEntry b none u))
      have h2 := clearOwnRow_bays b (holdEntry b none u)
      refine ⟨?_, by rw [h1.2.1, h2.2.1]; rfl⟩
      unfold State.bay
      rw [h1.1, h2.1]
      show ((u.setBay b _).bay b).entry = none
      rw [setBay_bay_self]
  refine ⟨?_, ?_, ?_, ?_⟩
  · dsimp only; simp
  · dsimp only; simp [e.1]
  · dsimp only; simp
  · dsimp only; intro h m; exact hu h (by simpa [e.2] using m)

/-- Nothing of a bay's work is left with the other blocks (R25). -/
structure Withdrawn (b : Bay) (t : State) : Prop where
  settle : (t.bay b).settleTimer = none
  entry : (t.bay b).entry = none
  solve : t.solve b = none
  held : ∀ h ∈ t.gov.held, h.bay ≠ b
  waiting : ∀ w ∈ t.stock.waiting, w.bay ≠ b

theorem sent_withdrawn {b : Bay} {s t : State} (h : SentAt b s t) (k : Beside b s t) (d : Withdrawn b s) : Withdrawn b t where
  settle := (h.bay b).settleTimer.trans d.settle
  entry := (h.bay b).entry.trans d.entry
  solve := by unfold State.solve; rw [h.solves]; exact d.solve
  held x m := d.held x (k.held x m)
  waiting w m := d.waiting w (by rw [h.waiting] at m; exact m)

theorem place_withdrawn {b : Bay} {s : State} (r : PortReq) (d : Withdrawn b s) : Withdrawn b (place b r s) :=
  sent_withdrawn (place_at r) (place_beside r) d
theorem setPort_withdrawn {b : Bay} {s : State} (p : Port) (d : Withdrawn b s) : Withdrawn b (s.setPort b p) :=
  sent_withdrawn (SentAt.setPort p) (Beside.setPort p) d

theorem placeClose_withdrawn {b : Bay} {s : State} (d : Withdrawn b s) : Withdrawn b (placeClose b s) := by
  unfold placeClose; split
  · exact d
  · split
    · exact d
    · exact place_withdrawn _ d
theorem placeWake_withdrawn {b : Bay} {s : State} (d : Withdrawn b s) : Withdrawn b (placeWake b s) := by
  unfold placeWake; split
  · split
    · exact d
    · exact place_withdrawn _ d
  · exact setPort_withdrawn _ d
  · exact d
  · exact d
theorem placeDark_withdrawn {b : Bay} {s : State} (d : Withdrawn b s) : Withdrawn b (placeDark b s) := by
  unfold placeDark; split
  · exact place_withdrawn _ d
  · exact d
theorem setOutcome_withdrawn {b : Bay} {s : State} (i : Nat) (o : SectionOutcome) (d : Withdrawn b s) : Withdrawn b (setOutcome b i o s) := by
  unfold setOutcome; split
  · exact d
  · exact ⟨d.settle, d.entry, d.solve, d.held, d.waiting⟩
theorem mark_withdrawn {b : Bay} {s : State} (d : Withdrawn b s) : Withdrawn b (markOpenPartial b s) := by
  unfold markOpenPartial; split
  · exact d
  · exact setOutcome_withdrawn _ _ d

theorem closePartial_withdrawn {b : Bay} {s : State} (d : Withdrawn b s) : Withdrawn b (closePartial b s) := by
  unfold closePartial; split
  · exact d
  · exact mark_withdrawn d

theorem withdrawKeys_withdrawn {b : Bay} {s : State} (d : (s.bay b).settleTimer = none ∧ (s.bay b).entry = none ∧ s.solve b = none ∧
    (∀ h ∈ s.gov.held, h.bay ≠ b)) : Withdrawn b (withdrawKeys b s) := by
  have k : Withdrawn b (withdrawKeyClaims b s) := by
    have w : ∀ u : State, ∀ w ∈ (leaveWaiting b u).stock.waiting, w.bay ≠ b := by
      intro u w m; have := List.of_mem_filter m; simpa using this
    have h1 : ∀ u : State, ∀ d : (u.bay b).settleTimer = none ∧ (u.bay b).entry = none ∧ u.solve b = none ∧ (∀ h ∈ u.gov.held, h.bay ≠ b),
        Withdrawn b (stopXfer b (leaveWaiting b u)) := by
      intro u d
      unfold stopXfer idleXfer
      split <;> exact ⟨d.1, d.2.1, d.2.2.1, d.2.2.2, w u⟩
    refine h1 _ ?_
    have bs : ∀ (u : State), (voidSending b u).bays = u.bays ∧ (voidSending b u).solves = u.solves ∧ (voidSending b u).gov = u.gov := by
      intro u
      unfold voidSending
      split
      · exact ⟨rfl, rfl, rfl⟩
      · unfold bayNotice placeNotice
        dsimp only
        split
        · exact ⟨rfl, rfl, rfl⟩
        · split <;> exact ⟨rfl, rfl, rfl⟩
    have br : ∀ (u : State), (returnReserved b u).bays = u.bays ∧ (returnReserved b u).solves = u.solves ∧ (returnReserved b u).gov = u.gov := by
      intro u
      unfold returnReserved
      split <;> exact ⟨rfl, rfl, rfl⟩
    have h2 := bs (returnReserved b s)
    have h3 := br s
    unfold State.bay State.solve
    rw [h2.1, h2.2.1, h2.2.2, h3.1, h3.2.1, h3.2.2]
    exact d
  unfold withdrawKeys
  split
  · exact k
  · rcases offer_beside (s := withdrawKeyClaims b s) _ with e | ⟨w, m, e⟩
    · rw [e]; exact k
    · have n : b ≠ w.bay := fun q => k.waiting w m q.symm
      exact ⟨by rw [e.bay b n]; exact k.settle, by rw [e.bay b n]; exact k.entry, by unfold State.solve; rw [e.solves]; exact k.solve,
        fun x hx => k.held x (e.held x hx), fun x hx => (e.waiting x hx).elim (k.waiting x) (fun q => by rw [q]; exact fun z => n z.symm)⟩

theorem forgetKey_withdrawn {b : Bay} {s : State} (d : Withdrawn b s) : Withdrawn b (forgetKey b s) := by
  unfold forgetKey State.modJob
  exact ⟨by simp [d.settle], by simp [d.entry], d.solve, d.held, d.waiting⟩

/-- Cleanup withdraws everything the bay has with the other blocks (R25, R26). -/
theorem cleanup_withdrawn (b : Bay) (s : State) : Withdrawn b (cleanup b s) := by
  unfold cleanup
  dsimp only
  refine forgetKey_withdrawn ?_
  have k : Withdrawn b (withdraw b withdrawnByCleanup (withdrawKeys b (orphanOutstanding b (withdrawClaims b s)))) := by
    exact setPort_withdrawn _ (withdrawKeys_withdrawn (withdrawClaims_gives b s))
  split
  · unfold cleanupTraffic
    exact placeDark_withdrawn (placeWake_withdrawn (placeClose_withdrawn (closePartial_withdrawn k)))
  · unfold cleanupSilent
    have := setPort_withdrawn (b := b)
      ({ (markOpenPartial b (withdraw b withdrawnByCleanup (withdrawKeys b (orphanOutstanding b (withdrawClaims b s))))).port b with
        openSection := none }) (mark_withdrawn k)
    exact ⟨by simpa using this.settle, by simpa using this.entry, this.solve, this.held, this.waiting⟩

end Sys2Proof.Machine
end

