-- ==== Sys2Proof/Laws/Faults.lean ====
section
/-! SUPPORT. What taking a fault comes to at its bay (R21, R22): one lemma for `raiseFault`, one for `raiseSilent`, and how a fault
taken later is a fault taken from an earlier state that agrees with it. -/

namespace Sys2Proof.Machine

open Sys2Proof

variable {b : Bay} {s t u : State} {cause : FaultCause} {detail : Nat}

theorem endQueuedPass_bays : (endQueuedPass b s).bays = s.bays := by
  unfold endQueuedPass
  split
  · rfl
  · split
    · unfold placeReply setPass withdraw
      split <;> split <;> rfl
    · rfl

theorem endQueuedPass_stock : (endQueuedPass b s).stock = s.stock := by
  unfold endQueuedPass placeReply setPass withdraw
  repeat' split
  all_goals rfl

theorem endQueuedPass_reset : (endQueuedPass b s).link.resetPending = s.link.resetPending := by
  unfold endQueuedPass placeReply setPass withdraw Link.fillReply
  repeat' split
  all_goals rfl

theorem endQueuedPass_none (h : (s.port b).tunnel = none) : endQueuedPass b s = s := by
  unfold endQueuedPass
  rw [h]

/-- A pass in state QUEUED is at hand at a bay. -/
def passQueued (b : Bay) (s : State) : Option Nat :=
  match (s.port b).tunnel with
  | none => none
  | some x =>
    match x.pass with
    | .queued tag => some tag
    | _ => none

theorem passReplied_eq : s.passReplied b = match passQueued b s with
    | none => s.link
    | some tag => s.link.fillReply passKind tag .badState [] := by
  unfold State.passReplied passQueued
  cases (s.port b).tunnel with
  | none => rfl
  | some x => cases x with | mk _ _ p => cases p <;> rfl

theorem fillReply_kept (l : Link) (kind tag : Nat) (st : Status) (body : List Byte) :
    (l.fillReply kind tag st body).resetPending = l.resetPending ∧ (l.fillReply kind tag st body).lostPending = l.lostPending := by
  unfold Link.fillReply
  split <;> exact ⟨rfl, rfl⟩

theorem passReplied_kept : (s.passReplied b).resetPending = s.link.resetPending ∧ (s.passReplied b).lostPending = s.link.lostPending := by
  rw [passReplied_eq]
  split
  · exact ⟨rfl, rfl⟩
  · exact fillReply_kept _ _ _ _ _

/-- The end of a queued pass: its reply, where no RESET FULL waits, and no queued pass after. -/
theorem endQueuedPass_link (r : s.link.resetPending = false) :
    (endQueuedPass b s).link = s.passReplied b ∧ passQueued b (endQueuedPass b s) = none := by
  cases h : (s.port b).tunnel with
  | none => simp [endQueuedPass, State.passReplied, passQueued, h]
  | some x =>
    cases x with
    | mk a f p =>
      cases p <;>
        simp [endQueuedPass, State.passReplied, passQueued, h, setPass, withdraw, placeReply, r, passKind]

theorem endQueuedPass_passSent (h : (s.port b).passSent = false) : ((endQueuedPass b s).port b).passSent = false := by
  cases k : (s.port b).tunnel with
  | none => simp [endQueuedPass, k, Port.passSent]
  | some x =>
    cases x with
    | mk a f p =>
      have h' := h
      unfold Port.passSent at h'
      rw [k] at h'
      cases r : s.link.resetPending <;> cases p <;>
        simp_all [endQueuedPass, setPass, withdraw, placeReply, Port.passSent]

theorem setOutcome_bays (i : Nat) (o : SectionOutcome) :
    (setOutcome b i o s).bays = s.bays ∧ (setOutcome b i o s).link = s.link ∧ (setOutcome b i o s).ports = s.ports := by
  unfold setOutcome
  split <;> exact ⟨rfl, rfl, rfl⟩

theorem markOpenPartial_bays :
    (markOpenPartial b s).bays = s.bays ∧ (markOpenPartial b s).link = s.link ∧ (markOpenPartial b s).ports = s.ports := by
  unfold markOpenPartial
  split
  · exact ⟨rfl, rfl, rfl⟩
  · exact setOutcome_bays _ _

/-- Only the bay's poller changes. -/
theorem settleHello_same : (settleHello b s).bays = s.bays ∧ (settleHello b s).ports = s.ports ∧ (settleHello b s).link = s.link ∧
    (settleHello b s).engine = s.engine := ⟨rfl, rfl, rfl, rfl⟩

theorem settleHello_port (c : Bay) : (settleHello b s).port c = s.port c := rfl

theorem linkDown_bays : (linkDown b s).bays = s.bays := by
  unfold linkDown
  exact markOpenPartial_bays.1.trans endQueuedPass_bays

theorem linkDown_link : (linkDown b s).link = (endQueuedPass b s).link := markOpenPartial_bays.2.1

theorem linkDown_waiting : (linkDown b s).stock.waiting = s.stock.waiting := by
  unfold linkDown markOpenPartial setOutcome endQueuedPass placeReply setPass
  dsimp only
  repeat' split
  all_goals rfl

theorem linkDown_tunnel : ((linkDown b s).port b).tunnel = ((endQueuedPass b s).port b).tunnel := by
  unfold linkDown
  dsimp only
  rw [settleHello_port, setPort_port_self]
  show (((markOpenPartial b (endQueuedPass b s)).ports).get b).tunnel = _
  rw [markOpenPartial_bays.2.2]
  rfl

theorem linkDown_alive : ((linkDown b s).port b).linkAlive = false := by
  unfold linkDown
  dsimp only
  rw [settleHello_port, setPort_port_self]
  rfl

/-! ## What a fault's cleanup leaves the line link and the waiting list -/

/-- The line link and the waiting list are as before. -/
def SameTold (s t : State) : Prop := t.link = s.link ∧ t.stock.waiting = s.stock.waiting

theorem SameTold.trans (h : SameTold s t) (k : SameTold t u) : SameTold s u := ⟨k.1.trans h.1, k.2.trans h.2⟩

theorem SentAt.told (h : SentAt b s t) : SameTold s t := ⟨h.link, h.waiting⟩

theorem chooseEntry_told : SameTold s (chooseEntry s) := by
  unfold chooseEntry takeEntry
  split
  · exact ⟨rfl, rfl⟩
  · split
    · exact ⟨rfl, rfl⟩
    · split <;> exact ⟨rfl, rfl⟩

theorem tellGrant_told : SameTold s (tellGrant b s) := by
  unfold tellGrant placeShow
  split
  · split
    · exact ⟨rfl, rfl⟩
    · split
      · exact ⟨rfl, rfl⟩
      · exact (place_at _).told
  · exact ⟨rfl, rfl⟩

theorem settleHead_told (fuel : Nat) : SameTold s (settleHead fuel s) := by
  induction fuel generalizing s with
  | zero => exact ⟨rfl, rfl⟩
  | succ n ih =>
    unfold settleHead
    split
    · exact ⟨rfl, rfl⟩
    · dsimp only
      split
      · next w _ _ _ =>
        have g : SameTold s (grantBay w.bay s) := tellGrant_told (s := s.setGov (s.gov.grant s.link.params w.bay s.now))
        exact g.trans ih
      · exact ⟨rfl, rfl⟩

theorem withdrawClaims_told : SameTold s (withdrawClaims b s) := by
  have r : SameTold s (releaseAdmission b (withdrawRequest b s)) := by
    unfold withdrawRequest
    split
    · exact ⟨rfl, rfl⟩
    · split
      · exact settleHead_told (s := s.setGov _) _
      · exact ⟨rfl, rfl⟩
  have row : ∀ u : State, SameTold u (clearOwnRow b (holdEntry b none u)) := by
    intro u
    unfold clearOwnRow clearRow
    split
    · exact ⟨rfl, rfl⟩
    · split
      · exact ⟨rfl, rfl⟩
      · split <;> exact ⟨rfl, rfl⟩
  have e : ∀ u : State, SameTold u (withdrawEntry b u) := by
    intro u
    unfold withdrawEntry
    split
    · exact ⟨rfl, rfl⟩
    · refine (row u).trans ?_
      unfold removeEntry
      split
      · exact chooseEntry_told (s := endCapture b (clearProbeReq b _))
      · exact ⟨rfl, rfl⟩
  exact r.trans (e _)

/-- The withdrawal of a FAULTED bay's key claims tells the station nothing where no other bay waits for a key (R21, R154). -/
theorem withdrawKeys_link (f : (s.bay b).state = .faulted) (w : ∀ x ∈ s.stock.waiting, x.bay = b) :
    (withdrawKeys b s).link = s.link := by
  have r : (returnReserved b s).bays = s.bays ∧ SameTold s (returnReserved b s) := by
    unfold returnReserved
    split <;> exact ⟨rfl, rfl, rfl⟩
  have v : SameTold s (voidSending b (returnReserved b s)) := by
    refine r.2.trans ?_
    unfold voidSending bayNotice
    split
    · exact ⟨rfl, rfl⟩
    · rw [if_pos (by unfold State.bay; exact (congrArg (fun l => (l.get b).state) r.1).trans f)]
      exact ⟨rfl, rfl⟩
  have k : (withdrawKeyClaims b s).link = s.link ∧ (withdrawKeyClaims b s).stock.waiting = [] := by
    have e : SameTold (leaveWaiting b (voidSending b (returnReserved b s))) (withdrawKeyClaims b s) := by
      unfold withdrawKeyClaims stopXfer
      split <;> exact ⟨rfl, rfl⟩
    refine ⟨e.1.trans v.1, e.2.trans ?_⟩
    refine List.filter_eq_nil_iff.mpr fun x m => ?_
    rw [v.2] at m
    simp [w x m]
  unfold withdrawKeys
  split
  · exact k.1
  · unfold offer
    rw [k.2]
    split
    · exact k.1
    · exact k.1

/-- Cleanup of a FAULTED bay tells the station nothing where no other bay waits for a key (R21). -/
theorem cleanup_link (f : (s.bay b).state = .faulted) (w : ∀ x ∈ s.stock.waiting, x.bay = b) :
    (cleanup b s).link = s.link := by
  have c := withdrawClaims_told (b := b) (s := s)
  have q : ((orphanOutstanding b (withdrawClaims b s)).bay b).state = .faulted := by
    have m : Moves (fun _ => False) (fun _ => False) 0 s (withdrawClaims b s) := withdrawClaims_moves .refl
    exact (m.core (b := b) (by simp)).1.trans f
  have k : (withdrawKeys b (orphanOutstanding b (withdrawClaims b s))).link = s.link :=
    (withdrawKeys_link q (fun x m => w x (by rw [← c.2]; exact m))).trans c.1
  unfold cleanup
  refine Eq.trans ?_ k
  dsimp only
  generalize withdrawKeys b (orphanOutstanding b (withdrawClaims b s)) = v
  show (if ((withdraw b withdrawnByCleanup v).port b).linkAlive then cleanupTraffic b (withdraw b withdrawnByCleanup v)
    else cleanupSilent b (withdraw b withdrawnByCleanup v)).link = (withdraw b withdrawnByCleanup v).link
  generalize withdraw b withdrawnByCleanup v = x
  split
  · have p : (closePartial b x).link = x.link := by
      unfold closePartial
      split
      · rfl
      · exact markOpenPartial_bays.2.1
    have a : ∀ y : State, (placeClose b y).link = y.link := by
      intro y
      unfold placeClose
      split
      · rfl
      · split
        · rfl
        · exact (place_at _).link
    have d : ∀ y : State, (placeWake b y).link = y.link := by
      intro y
      unfold placeWake
      split
      · split
        · rfl
        · exact (place_at _).link
      all_goals rfl
    have g : ∀ y : State, (placeDark b y).link = y.link := by
      intro y
      unfold placeDark
      split
      · exact (place_at _).link
      · rfl
    unfold cleanupTraffic
    rw [g, d, a, p]
  · exact markOpenPartial_bays.2.1

/-- The reply to a queued pass is no notice. -/
theorem endQueuedPass_notices :
    (endQueuedPass b s).link.placed.filter OutMsg.isNotice = s.link.placed.filter OutMsg.isNotice ∧
    (endQueuedPass b s).link.lost = s.link.lost ∧ (endQueuedPass b s).link.lostPending = s.link.lostPending := by
  unfold endQueuedPass
  split
  · exact ⟨rfl, rfl, rfl⟩
  · split
    · next tag _ =>
      have p : ∀ q : State, (placeReply passKind tag .badState [] q).link.placed.filter OutMsg.isNotice =
          q.link.placed.filter OutMsg.isNotice ∧ (placeReply passKind tag .badState [] q).link.lost = q.link.lost ∧
          (placeReply passKind tag .badState [] q).link.lostPending = q.link.lostPending := by
        intro q
        unfold placeReply Link.fillReply
        split
        · exact ⟨rfl, rfl, rfl⟩
        · split
          · exact ⟨rfl, rfl, rfl⟩
          · exact ⟨by simp [OutMsg.isNotice], rfl, rfl⟩
      have l : (setPass b .none (withdraw b PortReq.isForwarded s)).link = s.link := by
        unfold setPass
        split <;> rfl
      have := p (setPass b .none (withdraw b PortReq.isForwarded s))
      rw [l] at this
      exact this
    · exact ⟨rfl, rfl, rfl⟩

/-! ## Faults -/

/-- What an earlier state and a state a fault is told from agree in. -/
structure TellsAlike (b : Bay) (s u : State) : Prop where
  core : SameCore (s.bay b) (u.bay b)
  job : (u.bay b).job = (s.bay b).job
  waiting : u.stock.waiting = s.stock.waiting
  reset : u.link.resetPending = s.link.resetPending
  replied : s.link.resetPending = false → u.passReplied b = s.passReplied b
  out : s.NoPassOut b → u.NoPassOut b
  line : (s.port b).tunnel = none → u.link = s.link ∧ (u.port b).tunnel = none
  notices : u.link.placed.filter OutMsg.isNotice = s.link.placed.filter OutMsg.isNotice ∧ u.link.lost = s.link.lost ∧
    u.link.lostPending = s.link.lostPending

/-- The state a fault is told from may be an earlier one of the same bay record and line. -/
theorem FaultTaken.from (h : FaultTaken b cause detail u t) (a : TellsAlike b s u) : FaultTaken b cause detail s t := by
  obtain ⟨h1, h2⟩ := h
  obtain ⟨c1, c2, c3, c4, _, c6⟩ := a.core
  obtain ⟨n1, n2, n3⟩ := a.notices
  have st : (u.bay b).stage? = (s.bay b).stage? := by unfold BayRec.stage?; rw [a.job]
  rw [c1, c6, a.job, st, a.waiting, a.reset, n3] at h1
  rw [c1, c2, c3, c4, n1, n2, n3] at h2
  refine ⟨fun o => ?_, fun o => ?_⟩
  · obtain ⟨k1, k2, k3, k4, k5, k6, k7, k8, k9, k10⟩ := h1 o
    refine ⟨k1, k2, k3, k4, k5, k6, k7, k8, fun r p oc => ?_, fun r p w => ?_⟩
    · rw [← a.replied r] at oc ⊢
      exact k9 r (a.out p) oc
    · rw [← a.replied r]
      exact k10 r (a.out p) w
  · obtain ⟨k1, k2⟩ := h2 o
    refine ⟨fun tu => ?_, k2⟩
    obtain ⟨l1, l2⟩ := a.line tu
    exact (k1 l2).trans l1

/-- The state a fault leaves may be followed by moves that leave the bay's own state alone, and its settle timer. -/
theorem FaultTaken.then {w : State} (h : FaultTaken b cause detail s t)
    (m : Moves (fun _ => False) (fun _ => False) 0 t w) (settle : (w.bay b).settleTimer = (t.bay b).settleTimer)
    (link : w.link = t.link) :
    FaultTaken b cause detail s w := by
  obtain ⟨h1, h2⟩ := h
  obtain ⟨c1, c2, c3, c4, c5, c6⟩ := m.core (b := b) (by simp)
  have job := m.job_eq (b := b) (by simp) (by simp)
  have at' := m.attach (b := b) (by simp) (by simp)
  refine ⟨fun o => ?_, fun o => ?_⟩
  · obtain ⟨k1, k2, k3, k4, k5, k6, k7, k8, k9⟩ := h1 o
    rw [link]
    exact ⟨c1.trans k1, c2.trans k2, c3.trans k3, c4.trans k4, at'.trans k5, settle.trans k6, c6.trans k7, job.trans k8, k9⟩
  · obtain ⟨l1, l2, l3, l4, k1, k2, k3, k4⟩ := h2 o
    rw [link]
    exact ⟨l1, l2, l3, l4, c1.trans k1, c2.trans k2, fun l => ⟨c3.trans (k3 l).1, c4.trans (k3 l).2⟩,
      fun l => ⟨c3.trans (k4 l).1, c4.trans (k4 l).2⟩⟩

theorem placeNotice_bays (n : Notice) :
    (placeNotice n s).bays = s.bays ∧ (placeNotice n s).ports = s.ports := by
  unfold placeNotice
  split <;> exact ⟨rfl, rfl⟩

theorem placeNotice_placed (n : Notice) (h : s.link.resetPending = false) (o : s.link.occupied < 28) :
    (placeNotice n s).link.placed = s.link.placed ++ [.notice s.link.lostPending n] := by
  unfold placeNotice
  rw [if_neg (by simp [h]), setLink_link, Link.offerNotice, if_pos (by exact o)]

/-- Entry to FAULTED (R21). -/
theorem enterFaulted_taken (keep : Bool) (o : isOrigin (s.bay b).state) : FaultTaken b cause detail s (enterFaulted b cause detail keep s) ∧
    ((enterFaulted b cause detail keep s).bay b).firstKeep = keep := by
  have nf : (s.bay b).state ≠ .faulted := by
    rcases o with h | h | h | h | h <;> rw [h] <;> simp
  have eb : (endQueuedPass b s).bay b = s.bay b := by unfold State.bay; rw [endQueuedPass_bays]
  unfold enterFaulted
  dsimp only
  rw [eb]
  set v := (endQueuedPass b s).setBay b ((s.bay b).enterFault cause keep) with hv
  generalize hw : settleHello b (placeNotice (.fault b cause (s.bay b).state (s.bay b).stage? detail) v) = w
  have wb : w.bay b = (s.bay b).enterFault cause keep := by
    unfold State.bay
    rw [← hw, settleHello_same.1, (placeNotice_bays _).1]
    exact setBay_bay_self _ _ _
  have m : Moves (fun _ => False) (fun _ => False) 0 w (cleanup b (haltSeq b w)) := cleanup_moves (haltSeq_moves .refl)
  obtain ⟨c1, c2, c3, c4, c5, c6⟩ := m.core (b := b) (by simp)
  have job := m.job_eq (b := b) (by simp) (by simp)
  have at' := m.attach (b := b) (by simp) (by simp)
  have line := m.sameLine.2.2.2.2.2
  have d := cleanup_withdrawn b (haltSeq b w)
  rw [wb] at c1 c2 c3 c4 c5 c6 job at'
  have vl : s.link.resetPending = false → v.link = s.passReplied b := fun r => by
    rw [hv]
    exact (endQueuedPass_link r).1
  have vs : v.stock = s.stock := by rw [hv]; exact endQueuedPass_stock
  obtain ⟨kr, kl⟩ := passReplied_kept (b := b) (s := s)
  refine ⟨⟨fun _ => ⟨c1, c2, c3, c4, at', d.settle, c6, job, fun r _ oc => ?_, fun r _ wt => ?_⟩, fun f => absurd f nf⟩, c5⟩
  · refine List.IsPrefix.trans ?_ line
    have vl := vl r
    rw [← hw, settleHello_same.2.2.1, placeNotice_placed _ (by rw [vl, kr]; exact r) (by rw [vl]; exact oc), vl, kl]
  · have vl := vl r
    have n : w.link = (s.passReplied b).offerNotice (.fault b cause (s.bay b).state (s.bay b).stage? detail) ∧ w.stock = s.stock := by
      rw [← hw]
      show (placeNotice _ v).link = _ ∧ (placeNotice _ v).stock = _
      unfold placeNotice
      rw [if_neg (by rw [vl, kr, r]; simp), setLink_link, vl]
      exact ⟨rfl, vs⟩
    have h : SameTold w (haltSeq b w) ∧ (haltSeq b w).bays = w.bays := by
      unfold haltSeq
      split <;> exact ⟨⟨rfl, rfl⟩, rfl⟩
    refine (cleanup_link ?_ ?_).trans (h.1.1.trans n.1)
    · unfold State.bay
      rw [h.2]
      show (w.bay b).state = _
      rw [wb]
      rfl
    · rw [h.1.2, n.2]
      exact wt

/-- A fault at a bay (R21, R22). -/
theorem raiseFault_taken (keep : Bool) : FaultTaken b cause detail s (raiseFault b cause detail keep s) := by
  unfold raiseFault
  split
  · next h =>
    refine ⟨fun o => ?_, fun _ => ?_⟩
    · rcases o with k | k | k | k | k <;> rw [k] at h <;> cases h
    · rw [setBay_bay_self]
      refine ⟨fun _ => rfl, rfl, rfl, rfl, ?_⟩
      unfold BayRec.appendFault
      split
      · next l => exact ⟨h, rfl, fun _ => ⟨rfl, rfl⟩, fun k => absurd l (by omega)⟩
      · next l => exact ⟨h, rfl, fun k => absurd k l, fun _ => ⟨rfl, rfl⟩⟩
  · next h => exact (enterFaulted_taken keep (by rw [h]; exact .inr (.inr (.inl rfl)))).1
  · next h => exact (enterFaulted_taken keep (by rw [h]; exact .inr (.inr (.inr (.inl rfl))))).1
  · next h => exact (enterFaulted_taken keep (by rw [h]; exact .inl rfl)).1
  · next h => exact (enterFaulted_taken keep (by rw [h]; exact .inr (.inl rfl))).1
  · next h => exact (enterFaulted_taken keep (by rw [h]; exact .inr (.inr (.inr (.inr rfl))))).1
  all_goals
    next h =>
    refine ⟨fun o => ?_, fun k => ?_⟩
    · rcases o with k | k | k | k | k <;> rw [k] at h <;> cases h
    · rw [k] at h; cases h

theorem raiseFault_keep (keep : Bool) (o : isOrigin (s.bay b).state) :
    ((raiseFault b cause detail keep s).bay b).firstKeep = keep := by
  unfold raiseFault
  rcases o with k | k | k | k | k <;> rw [k] <;> exact (enterFaulted_taken keep (by unfold isOrigin; rw [k]; simp)).2

/-- A fault at a bay moves link-alive nowhere. -/
theorem raiseFault_alive (keep : Bool) : ((raiseFault b cause detail keep s).port b).linkAlive = (s.port b).linkAlive := by
  have : Moves (fun x => x = b) (fun x => x = b) 0 s s := .refl
  unfold raiseFault
  split
  · rfl
  case h_7 => rfl
  case h_8 => rfl
  all_goals
    unfold enterFaulted
    dsimp only
    generalize (endQueuedPass b s).bay b = r
    have e : ((placeNotice (.fault b cause r.state r.stage? detail) ((endQueuedPass b s).setBay b (r.enterFault cause keep))).port b).linkAlive =
        (s.port b).linkAlive := by
      unfold State.port
      rw [(placeNotice_bays _).2]
      show (((endQueuedPass b s).port b)).linkAlive = _
      have m : Moves (fun _ => False) (fun _ => False) 0 s (endQueuedPass b s) := endQueuedPass_moves .refl
      exact m.alive (by simp)
    rw [← settleHello_port (b := b)] at e
    generalize settleHello b (placeNotice (.fault b cause r.state r.stage? detail) ((endQueuedPass b s).setBay b (r.enterFault cause keep))) = w at e ⊢
    have m : Moves (fun _ => False) (fun _ => False) 0 w (cleanup b (haltSeq b w)) := cleanup_moves (haltSeq_moves .refl)
    exact (m.alive (by simp)).trans e

/-- A fault that takes link-alive down first. -/
theorem raiseSilent_taken : FaultTaken b cause 0 s (raiseSilent b cause s) ∧ ((raiseSilent b cause s).port b).linkAlive = false := by
  unfold raiseSilent
  have e : (linkDown b s).bay b = s.bay b := by unfold State.bay; rw [linkDown_bays]
  refine ⟨(raiseFault_taken false).from {
      core := by rw [e]; exact SameCore.refl _
      job := by rw [e]
      waiting := linkDown_waiting
      reset := by rw [linkDown_link]; exact endQueuedPass_reset
      replied := fun r => by
        have q : passQueued b (linkDown b s) = none := by
          unfold passQueued
          rw [linkDown_tunnel]
          exact (endQueuedPass_link r).2
        rw [passReplied_eq, q, linkDown_link]
        exact (endQueuedPass_link r).1
      out := by
        rintro (h | ⟨h, p⟩)
        · exact .inl (by rw [linkDown_tunnel, endQueuedPass_none h]; exact h)
        · refine .inr ⟨by rw [e]; exact h, ?_⟩
          have q := endQueuedPass_passSent p
          unfold Port.passSent at q ⊢
          rw [linkDown_tunnel]
          exact q
      line := fun h => by
        rw [linkDown_link, linkDown_tunnel, endQueuedPass_none h]
        exact ⟨rfl, h⟩
      notices := by rw [linkDown_link]; exact endQueuedPass_notices }, ?_⟩
  · rw [raiseFault_alive]; exact linkDown_alive

/-! ## Cleanup and faults leave the engine alone where the bay has no capture entry -/

theorem placeShow_engine : (placeShow b s).engine = s.engine := by
  unfold placeShow
  split
  · rfl
  · exact (place_at _).engine

theorem tellGrant_engine : (tellGrant b s).engine = s.engine := by
  unfold tellGrant
  split
  · split
    · rfl
    · exact placeShow_engine
  · rfl

theorem settleHead_engine (fuel : Nat) : (settleHead fuel s).engine = s.engine := by
  induction fuel generalizing s with
  | zero => rfl
  | succ n ih =>
    unfold settleHead
    split
    · rfl
    · dsimp only
      split
      · rw [ih]; exact tellGrant_engine
      · rfl

theorem withdrawRequest_engine : (withdrawRequest b s).engine = s.engine := by
  unfold withdrawRequest
  split
  · rfl
  · split
    · exact settleHead_engine _
    · rfl

/-- Granting touches no bay's capture entry. -/
theorem withdrawRequest_entry (c : Bay) : ((withdrawRequest b s).bay c).entry = (s.bay c).entry := by
  have show' : ∀ (x : Bay) (u : State), ((placeShow x u).bay c).entry = (u.bay c).entry := by
    intro x u
    unfold placeShow
    split
    · rfl
    · exact ((place_at _).bay c).entry
  have tell : ∀ (x : Bay) (u : State), ((tellGrant x u).bay c).entry = (u.bay c).entry := by
    intro x u
    unfold tellGrant
    split
    · split
      · rw [setBay_bay]; split
        · next e => subst e; rfl
        · rfl
      · exact show' _ _
    · rfl
  have settle : ∀ (fuel : Nat) (u : State), ((settleHead fuel u).bay c).entry = (u.bay c).entry := by
    intro fuel
    induction fuel with
    | zero => intro u; rfl
    | succ n ih =>
      intro u
      unfold settleHead
      split
      · rfl
      · dsimp only
        split
        · rw [ih]; exact tell _ _
        · rfl
  unfold withdrawRequest
  split
  · rfl
  · split
    · exact settle _ _
    · rfl

theorem placeClose_engine : (placeClose b s).engine = s.engine := by
  unfold placeClose
  split
  · rfl
  · split
    · rfl
    · exact (place_at _).engine

theorem placeWake_engine : (placeWake b s).engine = s.engine := by
  unfold placeWake
  split
  · split
    · rfl
    · exact (place_at _).engine
  all_goals rfl

theorem placeDark_engine : (placeDark b s).engine = s.engine := by
  unfold placeDark
  split
  · exact (place_at _).engine
  · rfl

theorem markOpenPartial_engine : (markOpenPartial b s).engine = s.engine := by
  unfold markOpenPartial
  split
  · rfl
  · unfold setOutcome
    split <;> rfl

theorem closePartial_engine : (closePartial b s).engine = s.engine := by
  unfold closePartial
  split
  · rfl
  · exact markOpenPartial_engine

theorem returnReserved_engine : (returnReserved b s).engine = s.engine := by
  unfold returnReserved
  split <;> rfl

theorem voidSending_engine : (voidSending b s).engine = s.engine := by
  unfold voidSending
  split
  · rfl
  · exact (bayNotice_beside (c := b) b _).engine

theorem stopXfer_engine : (stopXfer b s).engine = s.engine := by
  unfold stopXfer idleXfer
  split <;> rfl

theorem withdrawKeys_engine : (withdrawKeys b s).engine = s.engine := by
  have claims : (withdrawKeyClaims b s).engine = s.engine :=
    stopXfer_engine.trans (voidSending_engine.trans returnReserved_engine)
  unfold withdrawKeys
  split
  · exact claims
  · rcases offer_beside (s := withdrawKeyClaims b s) _ with e | ⟨w, _, e⟩
    · rw [e]; exact claims
    · exact e.engine.trans claims

theorem orphanOutstanding_engine : (orphanOutstanding b s).engine = s.engine := rfl

theorem withdrawEntry_none (h : (s.bay b).entry = none) : withdrawEntry b s = s := by
  unfold withdrawEntry
  rw [h]

theorem withdrawClaims_engine (h : (s.bay b).entry = none) : (withdrawClaims b s).engine = s.engine := by
  have e : ((releaseAdmission b (withdrawRequest b s)).bay b).entry = none := (withdrawRequest_entry b).trans h
  show (withdrawEntry b (releaseAdmission b (withdrawRequest b s))).engine = s.engine
  rw [withdrawEntry_none e]
  exact withdrawRequest_engine

theorem cleanupTraffic_engine : (cleanupTraffic b s).engine = s.engine := by
  unfold cleanupTraffic
  rw [placeDark_engine, placeWake_engine, placeClose_engine, closePartial_engine]

theorem cleanupSilent_engine : (cleanupSilent b s).engine = s.engine := markOpenPartial_engine

theorem cleanup_engine (h : (s.bay b).entry = none) : (cleanup b s).engine = s.engine := by
  have k : (withdraw b withdrawnByCleanup (withdrawKeys b (orphanOutstanding b (withdrawClaims b s)))).engine = s.engine := by
    show (withdrawKeys b (orphanOutstanding b (withdrawClaims b s))).engine = s.engine
    rw [withdrawKeys_engine, orphanOutstanding_engine, withdrawClaims_engine h]
  unfold cleanup
  dsimp only
  show (if _ then _ else _ : State).engine = _
  split
  · rw [cleanupTraffic_engine]; exact k
  · rw [cleanupSilent_engine]; exact k

theorem haltSeq_engine : (haltSeq b s).engine = s.engine ∧ (haltSeq b s).bays = s.bays := by
  unfold haltSeq
  split <;> exact ⟨rfl, rfl⟩

theorem placeNotice_engine (n : Notice) : (placeNotice n s).engine = s.engine := (placeNotice_beside (c := 0) n).engine

theorem endQueuedPass_engine : (endQueuedPass b s).engine = s.engine := by
  unfold endQueuedPass
  split
  · rfl
  · split
    · unfold placeReply setPass withdraw
      split <;> split <;> rfl
    · rfl

theorem raiseFault_engine (keep : Bool) (h : (s.bay b).entry = none) : (raiseFault b cause detail keep s).engine = s.engine := by
  have enter : (enterFaulted b cause detail keep s).engine = s.engine := by
    unfold enterFaulted
    dsimp only
    generalize hv : (endQueuedPass b s).setBay b (((endQueuedPass b s).bay b).enterFault cause keep) = v
    have vb : (v.bay b).entry = none := by
      rw [← hv, setBay_bay_self]
      show ((endQueuedPass b s).bay b).entry = none
      unfold State.bay
      rw [endQueuedPass_bays]
      exact h
    have ve : v.engine = s.engine := by rw [← hv]; exact endQueuedPass_engine
    generalize Notice.fault b cause ((endQueuedPass b s).bay b).state ((endQueuedPass b s).bay b).stage? detail = n
    rw [cleanup_engine, haltSeq_engine.1, settleHello_same.2.2.2, placeNotice_engine, ve]
    unfold State.bay
    rw [haltSeq_engine.2, settleHello_same.1, (placeNotice_bays _).1]
    exact vb
  unfold raiseFault
  split
  · rfl
  · exact enter
  · exact enter
  · exact enter
  · exact enter
  · exact enter
  · rfl
  · rfl

/-- The choice of an entry changes no queue, no bay, and no probe but the chosen entry's. -/
theorem chooseEntry_keeps : (chooseEntry s).engine.queue = s.engine.queue ∧ (chooseEntry s).bays = s.bays ∧
    (chooseEntry s).ports = s.ports ∧ (chooseEntry s).link = s.link ∧
    ((∀ x ∈ s.engine.queue, x.bay ≠ b) → (chooseEntry s).probe b = s.probe b) := by
  have frame : ∀ (e : Entry) (u : State), e.bay ≠ b → (beginExposing e u).probe b = u.probe b := by
    intro e u n
    show (updAt (updAt u.engine.probes e.bay _) e.bay _).get b = _
    rw [updAt_get_ne _ _ n.symm, updAt_get_ne _ _ n.symm]
    rfl
  unfold chooseEntry
  split
  · exact ⟨rfl, rfl, rfl, rfl, fun _ => rfl⟩
  · split
    · exact ⟨rfl, rfl, rfl, rfl, fun _ => rfl⟩
    · next e h =>
      unfold takeEntry
      split
      · refine ⟨rfl, rfl, rfl, rfl, fun q => ?_⟩
        have n := q e (List.mem_of_find?_eq_some h)
        show (updAt s.engine.probes e.bay _).get b = _
        rw [updAt_get_ne _ _ n.symm]
        rfl
      · exact ⟨rfl, rfl, rfl, rfl, fun q => frame e s (q e (List.mem_of_find?_eq_some h))⟩

/-- A failed capture faults the bay that holds its number, ends its probe's request, and takes its entry from the queue (R93). -/
theorem failCapture_taken (e : Entry) (h : (s.bay e.bay).entry = some e.number) :
    FaultTaken e.bay cause 0 s (failCapture e cause s) ∧
    (failCapture e cause s).probe e.bay = { s.probe e.bay with outstanding := none } ∧
    ∀ x ∈ (failCapture e cause s).engine.queue, x.bay ≠ e.bay := by
  generalize hu : endCapture e.bay (clearProbeReq e.bay s) = u
  have ub : u.bay e.bay = s.bay e.bay := by rw [← hu]; rfl
  generalize hv : u.setBay e.bay { u.bay e.bay with entry := none } = v
  have vb : v.bay e.bay = { s.bay e.bay with entry := none } := by rw [← hv, setBay_bay_self, ub]
  have ve : v.engine = u.engine := by rw [← hv]; rfl
  have run : failCapture e cause s = chooseEntry (raiseFault e.bay cause 0 false v) := by
    unfold failCapture
    dsimp only
    rw [hu, if_pos (by rw [ub]; exact h), hv]
  have re : (raiseFault e.bay cause 0 false v).engine = u.engine := (raiseFault_engine false (by rw [vb])).trans ve
  have uq : ∀ x ∈ u.engine.queue, x.bay ≠ e.bay := by
    intro x m
    rw [← hu] at m
    simpa using List.of_mem_filter m
  have up : u.probe e.bay = { s.probe e.bay with outstanding := none } := by
    rw [← hu]
    show (updAt s.engine.probes e.bay _).get e.bay = _
    rw [updAt_get_self]
  have ul : u.link = s.link ∧ u.ports = s.ports ∧ u.stock.waiting = s.stock.waiting := by rw [← hu]; exact ⟨rfl, rfl, rfl⟩
  have vl : v.link = s.link ∧ v.ports = s.ports ∧ v.stock.waiting = s.stock.waiting := by rw [← hv]; exact ul
  rw [run]
  obtain ⟨c1, c2, _, _, c5⟩ := chooseEntry_keeps (s := raiseFault e.bay cause 0 false v) (b := e.bay)
  rw [re] at c1 c5
  refine ⟨?_, ?_, by rw [c1]; exact uq⟩
  · have f : FaultTaken e.bay cause 0 v (raiseFault e.bay cause 0 false v) := raiseFault_taken false
    refine (f.from {
      core := by rw [vb]; exact ⟨rfl, rfl, rfl, rfl, rfl, rfl⟩
      job := by rw [vb]
      waiting := vl.2.2
      reset := by rw [vl.1]
      replied := fun _ => by unfold State.passReplied State.port; rw [vl.1, vl.2.1]
      out := fun q => by
        unfold State.NoPassOut State.port at *
        rw [vb, vl.2.1]
        exact q
      line := fun q => ⟨vl.1, by unfold State.port; rw [vl.2.1]; exact q⟩
      notices := by rw [vl.1]; exact ⟨rfl, rfl, rfl⟩ }).then (chooseEntry_moves .refl) ?_ chooseEntry_told.1
    unfold State.bay
    rw [c2]
  · rw [c5 uq]
    show (raiseFault e.bay cause 0 false v).engine.probes.get e.bay = _
    rw [re]
    exact up

end Sys2Proof.Machine
end

