-- ==== Sys2Proof/Laws/PerInstr.lean ====
section
/-! SUPPORT. A statement about every command as it is written, one lemma for each constructor: a well-formed request bears
a tag of 1 to 255 (R184). -/

namespace Sys2Proof.Laws

/-- The tag a command bears, for the requests of the line. -/
def Requests.tag? : Instr → Option Nat
  | .powerOn => none
  | .lineByteReceived _ => none
  | .lineBreak => none
  | .dispatch => none
  | .outboundMessageSent => none
  | .ident tag => some tag
  | .status tag => some tag
  | .configure tag _ _ => some tag
  | .resetFull tag => some tag
  | .resetBays tag => some tag
  | .jobStart tag _ _ _ => some tag
  | .jobAbort tag _ => some tag
  | .bayResume tag _ => some tag
  | .bayRelease tag _ => some tag
  | .bayPark tag _ => some tag
  | .bayUnpark tag _ => some tag
  | .bayQuery tag _ => some tag
  | .tunnelEnter tag _ => some tag
  | .tunnelPass tag _ _ => some tag
  | .tunnelExit tag _ => some tag
  | .sheetRead tag _ _ _ _ => some tag
  | .mapRead tag _ _ _ _ => some tag
  | .keyLoad tag _ => some tag
  | .keyWithdrawById tag _ => some tag
  | .keyWithdrawByBatch tag _ => some tag
  | .keyPurgeAll tag => some tag
  | .keyPurgeBatch tag _ => some tag
  | .stockQueryCounts tag => some tag
  | .stockQueryRun tag _ _ => some tag
  | .stockQueryRecord tag _ => some tag
  | .profileLoad tag _ _ => some tag
  | .profileDrop tag _ => some tag
  | .classLoad tag _ _ => some tag
  | .classDrop tag _ => some tag
  | .poll _ _ => none
  | .attachTimerExpiry _ => none
  | .settleTimerExpiry _ => none
  | .setAnswerReceived _ _ => none
  | .setRequestTimeout _ => none
  | .keepDue _ => none
  | .lapse _ => none
  | .headTimerExpiry => none
  | .overtimeExpiry _ => none
  | .grantHistoryExpiry => none
  | .warmUpExpiry _ => none
  | .probeMessageReceived _ _ => none
  | .probeRequestTimeout _ => none
  | .solveDone _ => none

/-- A well-formed request bears a tag of 1 to 255. -/
def Requests.Statement (i : Instr) : Prop := i.wf = true → ∀ n, Requests.tag? i = some n → 1 ≤ n ∧ n < 256

/-- An event bears no tag. -/
theorem Requests.event {i : Instr} (h : Requests.tag? i = none) : Requests.Statement i :=
  fun _ n e => by rw [h] at e; cases e

/-- The tag check of a request is part of its well-formedness. -/
theorem Requests.request {i : Instr} {tag : Nat} (h : Requests.tag? i = some tag) (hw : i.wf = true → tagOk tag = true) :
    Requests.Statement i := by
  intro w n e
  rw [h] at e
  cases e
  simpa [tagOk, fits8] using hw w

/-- The first of two checks holds when both do. -/
theorem Requests.left {a b : Bool} (h : (a && b) = true) : a = true := (Bool.and_eq_true_iff.mp h).1

theorem Requests.powerOn : Requests.Statement .powerOn := Requests.event rfl
theorem Requests.lineByteReceived (byte) : Requests.Statement (.lineByteReceived byte) := Requests.event rfl
theorem Requests.lineBreak : Requests.Statement .lineBreak := Requests.event rfl
theorem Requests.dispatch : Requests.Statement .dispatch := Requests.event rfl
theorem Requests.outboundMessageSent : Requests.Statement .outboundMessageSent := Requests.event rfl
theorem Requests.ident (tag) : Requests.Statement (.ident tag) := Requests.request rfl (fun h => h)
theorem Requests.status (tag) : Requests.Statement (.status tag) := Requests.request rfl (fun h => h)
theorem Requests.configure (tag number value) : Requests.Statement (.configure tag number value) :=
  Requests.request rfl (fun h => Requests.left (Requests.left h))
theorem Requests.resetFull (tag) : Requests.Statement (.resetFull tag) := Requests.request rfl (fun h => h)
theorem Requests.resetBays (tag) : Requests.Statement (.resetBays tag) := Requests.request rfl (fun h => h)
theorem Requests.jobStart (tag bay slot args) : Requests.Statement (.jobStart tag bay slot args) :=
  Requests.request rfl (fun h => Requests.left (Requests.left (Requests.left h)))
theorem Requests.jobAbort (tag bay) : Requests.Statement (.jobAbort tag bay) :=
  Requests.request rfl Requests.left
theorem Requests.bayResume (tag bay) : Requests.Statement (.bayResume tag bay) :=
  Requests.request rfl Requests.left
theorem Requests.bayRelease (tag bay) : Requests.Statement (.bayRelease tag bay) :=
  Requests.request rfl Requests.left
theorem Requests.bayPark (tag bay) : Requests.Statement (.bayPark tag bay) :=
  Requests.request rfl Requests.left
theorem Requests.bayUnpark (tag bay) : Requests.Statement (.bayUnpark tag bay) :=
  Requests.request rfl Requests.left
theorem Requests.bayQuery (tag bay) : Requests.Statement (.bayQuery tag bay) :=
  Requests.request rfl Requests.left
theorem Requests.tunnelEnter (tag bay) : Requests.Statement (.tunnelEnter tag bay) :=
  Requests.request rfl Requests.left
theorem Requests.tunnelPass (tag bay carried) : Requests.Statement (.tunnelPass tag bay carried) :=
  Requests.request rfl (fun h => Requests.left (Requests.left h))
theorem Requests.tunnelExit (tag bay) : Requests.Statement (.tunnelExit tag bay) :=
  Requests.request rfl Requests.left
theorem Requests.sheetRead (tag bay row start count) : Requests.Statement (.sheetRead tag bay row start count) :=
  Requests.request rfl (fun h => Requests.left (Requests.left (Requests.left (Requests.left h))))
theorem Requests.mapRead (tag bay sec start count) : Requests.Statement (.mapRead tag bay sec start count) :=
  Requests.request rfl (fun h => Requests.left (Requests.left (Requests.left (Requests.left h))))
theorem Requests.keyLoad (tag key) : Requests.Statement (.keyLoad tag key) :=
  Requests.request rfl Requests.left
theorem Requests.keyWithdrawById (tag keyId) : Requests.Statement (.keyWithdrawById tag keyId) :=
  Requests.request rfl Requests.left
theorem Requests.keyWithdrawByBatch (tag batch) : Requests.Statement (.keyWithdrawByBatch tag batch) :=
  Requests.request rfl Requests.left
theorem Requests.keyPurgeAll (tag) : Requests.Statement (.keyPurgeAll tag) := Requests.request rfl (fun h => h)
theorem Requests.keyPurgeBatch (tag batch) : Requests.Statement (.keyPurgeBatch tag batch) :=
  Requests.request rfl Requests.left
theorem Requests.stockQueryCounts (tag) : Requests.Statement (.stockQueryCounts tag) :=
  Requests.request rfl (fun h => h)
theorem Requests.stockQueryRun (tag start count) : Requests.Statement (.stockQueryRun tag start count) :=
  Requests.request rfl (fun h => Requests.left (Requests.left h))
theorem Requests.stockQueryRecord (tag keyId) : Requests.Statement (.stockQueryRecord tag keyId) :=
  Requests.request rfl Requests.left
theorem Requests.profileLoad (tag slot fields) : Requests.Statement (.profileLoad tag slot fields) :=
  Requests.request rfl (fun h => Requests.left (Requests.left h))
theorem Requests.profileDrop (tag slot) : Requests.Statement (.profileDrop tag slot) :=
  Requests.request rfl Requests.left
theorem Requests.classLoad (tag classId fields) : Requests.Statement (.classLoad tag classId fields) :=
  Requests.request rfl (fun h => Requests.left (Requests.left h))
theorem Requests.classDrop (tag classId) : Requests.Statement (.classDrop tag classId) :=
  Requests.request rfl Requests.left
theorem Requests.poll (bay closed) : Requests.Statement (.poll bay closed) := Requests.event rfl
theorem Requests.attachTimerExpiry (bay) : Requests.Statement (.attachTimerExpiry bay) := Requests.event rfl
theorem Requests.settleTimerExpiry (bay) : Requests.Statement (.settleTimerExpiry bay) := Requests.event rfl
theorem Requests.setAnswerReceived (bay frame) : Requests.Statement (.setAnswerReceived bay frame) := Requests.event rfl
theorem Requests.setRequestTimeout (bay) : Requests.Statement (.setRequestTimeout bay) := Requests.event rfl
theorem Requests.keepDue (bay) : Requests.Statement (.keepDue bay) := Requests.event rfl
theorem Requests.lapse (bay) : Requests.Statement (.lapse bay) := Requests.event rfl
theorem Requests.headTimerExpiry : Requests.Statement .headTimerExpiry := Requests.event rfl
theorem Requests.overtimeExpiry (bay) : Requests.Statement (.overtimeExpiry bay) := Requests.event rfl
theorem Requests.grantHistoryExpiry : Requests.Statement .grantHistoryExpiry := Requests.event rfl
theorem Requests.warmUpExpiry (probe) : Requests.Statement (.warmUpExpiry probe) := Requests.event rfl
theorem Requests.probeMessageReceived (probe frame) : Requests.Statement (.probeMessageReceived probe frame) :=
  Requests.event rfl
theorem Requests.probeRequestTimeout (probe) : Requests.Statement (.probeRequestTimeout probe) := Requests.event rfl
theorem Requests.solveDone (bay) : Requests.Statement (.solveDone bay) := Requests.event rfl

end Sys2Proof.Laws
end

