-- ==== Sys2Proof/Laws/Probes.lean ====
section
/-! SUPPORT. What the capture engine sends to a probe: a request at the exposure loop's beginning, and the choice of an entry by an
IDLE engine (R78 to R80, R83, R85, R87). -/

namespace Sys2Proof.Machine

open Sys2Proof

theorem sendFrameReq_asked (b : Bay) (cols rows : Nat) (s : State) :
    FrameAsked b (s.probe b) cols rows s (sendFrameReq b cols rows s) := by
  refine ⟨?_, by simp [sendFrameReq, driveProbe, frameReqBytes, probeStart, nextSeqNo]⟩
  show ((s.setProbe b _).setOut _).probe b = _
  simp [frameReqBytes, probeStart, nextSeqNo, exposureTicks, Config.quarterMs, Config.probeByteTicks]

theorem sendRefReq_asked (b : Bay) (s : State) : ReferenceAsked b (s.probe b) s (sendRefReq b s) := by
  refine ⟨?_, by simp [sendRefReq, driveProbe, refReqBytes, probeStart, nextSeqNo]⟩
  show ((s.setProbe b _).setOut _).probe b = _
  simp [refReqBytes, probeStart, nextSeqNo, Config.probeByteTicks]

/-- The exposure loop begins with the seeding R78 asks for and its first frame. -/
theorem beginExposing_begun (e : Entry) (s : State) : ExposureBegun e (s.probe e.bay) s (beginExposing e s) := by
  have h : FrameAsked e.bay (seedProbe (s.probe e.bay) (s.bayClass e.bay)) e.cols e.rows s (beginExposing e s) := by
    have a := sendFrameReq_asked e.bay e.cols e.rows (setCurrent (some
      { phase := .exposing, entry := e, exposures := 1, accepted := [], discarded := 0 })
      (s.setProbe e.bay (seedProbe (s.probe e.bay) (s.bayClass e.bay))))
    rwa [show ∀ c (u : State), (setCurrent c u).probe e.bay = u.probe e.bay from fun _ _ => rfl, setProbe_probe_self] at a
  refine ⟨rfl, fun k => ?_, fun k c hc => ?_⟩
  · rwa [show seedProbe (s.probe e.bay) (s.bayClass e.bay) = s.probe e.bay by simp [seedProbe, k]] at h
  · rwa [show seedProbe (s.probe e.bay) (s.bayClass e.bay) = { s.probe e.bay with step := c.initStep, seeded := true } by
      simp [seedProbe, k, hc]] at h

/-- An IDLE engine's choice from its queue, with what it sends. -/
theorem chooseEntry_chose {s : State} (h : s.engine.current = none) : EngineChose s.engine.queue s (chooseEntry s) := by
  unfold EngineChose chooseEntry
  rw [h]
  change match s.engine.queue.find? (eligible s.engine) with | none => _ | some x => _
  cases e : s.engine.queue.find? (eligible s.engine) with
  | none => exact ⟨h, rfl⟩
  | some x =>
    simp only [takeEntry, refDue, Bool.or_eq_true, decide_eq_true_eq]
    split
    · exact ⟨rfl, sendRefReq_asked x.bay (setCurrent _ s)⟩
    · exact beginExposing_begun x s

/-- The choice is stated from any earlier state with the same instant, reference interval and line, and the same probe and class for
each bay of the queue. -/
theorem EngineChose.earlier {q : List Entry} {s u t : State} (h : EngineChose q u t) (n : u.now = s.now)
    (p : u.link.params.refInterval = s.link.params.refInterval) (o : u.out.pptx = s.out.pptx)
    (k : ∀ x ∈ q, u.probe x.bay = s.probe x.bay ∧ u.bayClass x.bay = s.bayClass x.bay) : EngineChose q s t := by
  have f : q.find? (fun x => decide ((u.probe x.bay).warm = .warm)) = q.find? (fun x => decide ((s.probe x.bay).warm = .warm)) :=
    List.find?_congr fun x m => by rw [(k x m).1]
  unfold EngineChose at h ⊢
  rw [f] at h
  cases e : q.find? (fun x => decide ((s.probe x.bay).warm = .warm)) with
  | none => simp only [e] at h; exact ⟨h.1, h.2.trans o⟩
  | some x =>
    obtain ⟨k1, k2⟩ := k x (List.mem_of_find?_eq_some e)
    simp only [e, ExposureBegun, FrameAsked, ReferenceAsked, n, p, k1, k2] at h ⊢
    exact h

end Sys2Proof.Machine
end

