-- ==== Sys2Proof/Laws/Reading.lean ====
section
/-! SUPPORT. Reading a field undoes its writing, for each form of R187 and every value that fits it; and writing undoes reading, so
that a body that reads is the body of a well-formed request. -/

namespace Sys2Proof.Machine

open Sys2Proof

theorem byteOf_toNat {n : Nat} (h : n < 256) : (byteOf n).toNat = n := by
  simp only [byteOf, BitVec.toNat_ofNat]
  omega

theorem byteOf_mod (n : Nat) : (byteOf n).toNat = n % 256 := by simp [byteOf]

theorem get8_write {n : Nat} (h : n < 256) (r : List Byte) : get8 (byteOf n :: r) = some (n, r) := by
  simp [get8, byteOf_toNat h]

theorem nat16_write {n : Nat} (h : n < 65536) : nat16 (byteOf (n / 256)) (byteOf n) = n := by
  simp only [nat16, byteOf_mod]
  omega

theorem nat32_write {n : Nat} (h : n < 4294967296) :
    nat32 (byteOf (n / 16777216)) (byteOf (n / 65536)) (byteOf (n / 256)) (byteOf n) = n := by
  simp only [nat32, nat16, byteOf_mod]
  omega

theorem get16_write {n : Nat} (h : n < 65536) (r : List Byte) : get16 (be16 n ++ r) = some (n, r) := by
  simp [be16, get16, nat16_write h]

theorem get32_write {n : Nat} (h : n < 4294967296) (r : List Byte) : get32 (be32 n ++ r) = some (n, r) := by
  simp [be32, get32, nat32_write h]

theorem getRun_write (xs r : List Byte) : getRun xs.length (xs ++ r) = some (xs, r) := by simp [getRun]

theorem getTriple_write (t : Triple) (r : List Byte) : getTriple (tripleBytes t ++ r) = some (t, r) := by
  simp [tripleBytes, getTriple]

theorem words16_write {l : List Nat} (h : ∀ n ∈ l, n < 65536) : words16 (l.flatMap be16) = l := by
  induction l with
  | nil => rfl
  | cons n l ih =>
    have e := nat16_write (h n (by simp))
    simp only [List.flatMap_cons, be16, List.cons_append, List.nil_append, words16, e]
    rw [ih (fun m hm => h m (by simp [hm]))]

theorem triples_write (l : List Triple) : triples (l.flatMap tripleBytes) = l := by
  induction l with
  | nil => rfl
  | cons t l ih => simp [tripleBytes, triples, ih]

theorem bytes_write {l : List Nat} (h : ∀ n ∈ l, n < 256) : (l.flatMap (fun n => [byteOf n])).map BitVec.toNat = l := by
  induction l with
  | nil => rfl
  | cons n l ih => simp [byteOf_toNat (h n (by simp)), ih (fun m hm => h m (by simp [hm]))]

theorem flatMap_length {α : Type} (f : α → List Byte) (k : Nat) (hf : ∀ x, (f x).length = k) (l : List α) :
    (l.flatMap f).length = k * l.length := by
  induction l with
  | nil => simp
  | cons x l ih => simp [hf, ih]; ring

theorem listOk_iff (fits : Nat → Bool) (l : List Nat) : listOk fits l = true ↔ l.length < 256 ∧ ∀ n ∈ l, fits n = true := by
  simp [listOk]

theorem getList8_write {l : List Nat} (h : listOk fits8 l = true) (r : List Byte) :
    getList8 (listBytes (fun n => [byteOf n]) l ++ r) = some (l, r) := by
  obtain ⟨hl, hn⟩ := (listOk_iff _ _).mp h
  have e := getRun_write (l.flatMap (fun n => [byteOf n])) r
  rw [flatMap_length _ 1 (fun _ => rfl), Nat.one_mul] at e
  simp only [getList8, listBytes, List.cons_append, get8_write hl, Option.bind_eq_bind, Option.bind_some, e,
    bytes_write (fun n m => by simpa using hn n m)]
  rfl

theorem getList16_write {l : List Nat} (h : listOk fits16 l = true) (r : List Byte) :
    getList16 (listBytes be16 l ++ r) = some (l, r) := by
  obtain ⟨hl, hn⟩ := (listOk_iff _ _).mp h
  have e := getRun_write (l.flatMap be16) r
  rw [flatMap_length _ 2 (fun _ => rfl)] at e
  simp only [getList16, listBytes, List.cons_append, get8_write hl, Option.bind_eq_bind, Option.bind_some, e,
    words16_write (fun n m => by simpa using hn n m)]
  rfl

theorem getTriples_write {l : List Triple} (h : l.length < 256) (r : List Byte) :
    getTriples (listBytes tripleBytes l ++ r) = some (l, r) := by
  have e := getRun_write (l.flatMap tripleBytes) r
  rw [flatMap_length _ 3 (fun _ => rfl)] at e
  simp only [getTriples, listBytes, List.cons_append, get8_write h, Option.bind_eq_bind, Option.bind_some, e, triples_write]
  rfl

/-- A field whose presence bit says whether it was written. -/
theorem getIf_write {α : Type} {read : List Byte → Option (α × List Byte)} {write : α → List Byte} (x : Option α)
    (h : ∀ y, x = some y → ∀ r, read (write y ++ r) = some (y, r)) (r : List Byte) :
    getIf x.isSome read (optBytes write x ++ r) = some (x, r) := by
  cases x with
  | none => rfl
  | some y => simp [getIf, optBytes, h y rfl r]

/-! ## Bodies -/

theorem atEnd_nil {α} (x : α) : atEnd x [] = some x := rfl

/-- The bits of a presence byte say which parameters are present. -/
theorem presence_bits (a : JobArgs) (n : Nat) (hn : n = presence a) :
    n < 128 ∧ n.testBit 0 = a.levels.isSome ∧ n.testBit 1 = a.samples.isSome ∧ n.testBit 2 = a.target.isSome ∧
    n.testBit 3 = a.floorRatio.isSome ∧ n.testBit 4 = a.tolerance.isSome ∧ n.testBit 5 = a.iterLimit.isSome ∧
    n.testBit 6 = a.mask.isSome ∧ n.testBit 7 = false := by
  subst hn
  unfold presence presenceBit
  generalize a.levels.isSome = x0
  generalize a.samples.isSome = x1
  generalize a.target.isSome = x2
  generalize a.floorRatio.isSome = x3
  generalize a.tolerance.isSome = x4
  generalize a.iterLimit.isSome = x5
  generalize a.mask.isSome = x6
  revert x0 x1 x2 x3 x4 x5 x6
  decide

theorem optOk_some {α} {ok : α → Bool} {x : Option α} (h : optOk ok x = true) : ∀ y, x = some y → ok y = true := by
  rintro y rfl; exact h

theorem parseJobStart_write {bay slot : Nat} {a : JobArgs} (hb : bay < 256) (hs : slot < 256) (ha : a.wf = true) :
    parseJobStart ([byteOf bay, byteOf slot, byteOf (presence a)] ++ argsBytes a) = some (bay, slot, a) := by
  obtain ⟨p, b0, b1, b2, b3, b4, b5, b6, b7⟩ := presence_bits a _ rfl
  simp only [JobArgs.wf, Bool.and_eq_true] at ha
  obtain ⟨⟨⟨⟨⟨⟨w0, w1⟩, w2⟩, w3⟩, w4⟩, w5⟩, w6⟩ := ha
  have g0 := getIf_write a.levels (fun y e r => getList16_write (optOk_some w0 y e) r)
  have g1 := getIf_write (write := fun n => [byteOf n]) a.samples (fun y e r => get8_write (by simpa using optOk_some w1 y e) r)
  have g2 := getIf_write a.target (fun y e r => get16_write (by simpa using optOk_some w2 y e) r)
  have g3 := getIf_write a.floorRatio (fun y e r => get16_write (by simpa using optOk_some w3 y e) r)
  have g4 := getIf_write (write := fun n => [byteOf n]) a.tolerance (fun y e r => get8_write (by simpa using optOk_some w4 y e) r)
  have g5 := getIf_write (write := fun n => [byteOf n]) a.iterLimit (fun y e r => get8_write (by simpa using optOk_some w5 y e) r)
  have g6 := getIf_write a.mask (fun y e r => getList16_write (optOk_some w6 y e) r)
  have g6' := g6 []
  rw [List.append_nil] at g6'
  have g4' : ∀ r, getIf a.tolerance.isSome get8 (optBytes (fun n => [byteOf n]) a.tolerance ++ r) = some (a.tolerance, r) := g4
  have g5' : ∀ r, getIf a.iterLimit.isSome get8 (optBytes (fun n => [byteOf n]) a.iterLimit ++ r) = some (a.iterLimit, r) := g5
  have g1' : ∀ r, getIf a.samples.isSome get8 (optBytes (fun n => [byteOf n]) a.samples ++ r) = some (a.samples, r) := g1
  simp only [parseJobStart, argsBytes, List.cons_append, List.nil_append, List.append_assoc, get8_write hb, get8_write hs,
    get8_write (show presence a < 256 by omega), Option.bind_eq_bind, Option.bind_some, b0, b1, b2, b3, b4, b5, b6, b7,
    g0, g1', g2, g3, g4', g5', g6', Bool.false_eq_true, if_false, atEnd_nil]

theorem parseKeyLoad_write {k : KeyFields} (h : k.wf = true) : parseKeyLoad (keyBytes k) = some k := by
  simp only [KeyFields.wf, Bool.and_eq_true, decide_eq_true_eq] at h
  obtain ⟨⟨⟨⟨⟨a, b⟩, c⟩, d⟩, e⟩, _⟩ := h
  have hc : k.check.toNat < 4294967296 := k.check.isLt
  simp only [parseKeyLoad, keyBytes, List.append_assoc, get32_write a, Option.bind_eq_bind, Option.bind_some,
    List.cons_append, List.nil_append, get8_write b, get16_write d, getTriples_write c, get16_write e, get32_write hc]
  simp

theorem parseProfile_write {slot : Nat} {p : ProfileFields} (hs : slot < 256) (h : p.wf = true) :
    parseProfile (byteOf slot :: profileBytes p) = some (slot, p) := by
  simp only [ProfileFields.wf, Bool.and_eq_true, decide_eq_true_eq] at h
  obtain ⟨⟨⟨⟨⟨a, b⟩, c⟩, d⟩, e⟩, f⟩ := h
  have f' := getList8_write f []
  rw [List.append_nil] at f'
  simp only [parseProfile, profileBytes, List.append_assoc, get8_write hs, Option.bind_eq_bind, Option.bind_some,
    List.cons_append, List.nil_append, getTriple_write, getList8_write a, getTriples_write b, get8_write c, get8_write d,
    get16_write e, f', atEnd_nil]

theorem parseClass_write {id : Nat} {c : ClassFields} (hs : id < 256) (h : c.wf = true) :
    parseClass (byteOf id :: classBytes c) = some (id, c) := by
  simp only [ClassFields.wf, Bool.and_eq_true, decide_eq_true_eq] at h
  obtain ⟨⟨⟨⟨a, b⟩, d⟩, e⟩, f⟩ := h
  have g := get16_write c.pairs.isLt []
  rw [List.append_nil] at g
  simp only [parseClass, classBytes, List.append_assoc, get8_write hs, Option.bind_eq_bind, Option.bind_some,
    List.cons_append, List.nil_append, get8_write a, get8_write b, get16_write d, get16_write e, get8_write f, g, atEnd_nil]
  simp

theorem parse1_write {n : Nat} (h : n < 256) : parse1 [byteOf n] = some n := by simp [parse1, byteOf_toNat h]

theorem parseRead_write {a b c d : Nat} (ha : a < 256) (hb : b < 256) (hc : c < 65536) (hd : d < 65536) :
    parseRead ([byteOf a, byteOf b] ++ be16 c ++ be16 d) = some (a, b, c, d) := by
  have g := get16_write hd []
  rw [List.append_nil] at g
  simp only [parseRead, List.cons_append, List.nil_append, get8_write ha, get8_write hb, get16_write hc, g,
    Option.bind_eq_bind, Option.bind_some, atEnd_nil]

theorem get16_all {n : Nat} (h : n < 65536) : get16 (be16 n) = some (n, []) := by
  have g := get16_write h []
  rwa [List.append_nil] at g

theorem get32_all {n : Nat} (h : n < 4294967296) : get32 (be32 n) = some (n, []) := by
  have g := get32_write h []
  rwa [List.append_nil] at g

/-! ## Writing undoes reading -/

theorem byteOf_read (a : Byte) : byteOf a.toNat = a := by simp [byteOf]

theorem get8_read {bs r : List Byte} {n : Nat} (h : get8 bs = some (n, r)) : bs = byteOf n :: r ∧ n < 256 := by
  cases bs with
  | nil => simp [get8] at h
  | cons a bs =>
    simp only [get8, Option.some.injEq, Prod.mk.injEq] at h
    obtain ⟨rfl, rfl⟩ := h
    exact ⟨by rw [byteOf_read], a.isLt⟩

theorem nat16_read (a b : Byte) : be16 (nat16 a b) = [a, b] ∧ nat16 a b < 65536 := by
  have ha := a.isLt
  have hb := b.isLt
  refine ⟨?_, by unfold nat16; omega⟩
  simp only [be16, List.cons.injEq, and_true]
  constructor <;> apply BitVec.eq_of_toNat_eq <;> rw [byteOf_mod] <;> unfold nat16 <;> omega

theorem get16_read {bs r : List Byte} {n : Nat} (h : get16 bs = some (n, r)) : bs = be16 n ++ r ∧ n < 65536 := by
  match bs, h with
  | a :: b :: bs, h =>
    simp only [get16, Option.some.injEq, Prod.mk.injEq] at h
    obtain ⟨rfl, rfl⟩ := h
    exact ⟨by rw [(nat16_read a b).1]; rfl, (nat16_read a b).2⟩

theorem nat32_read (a b c d : Byte) : be32 (nat32 a b c d) = [a, b, c, d] ∧ nat32 a b c d < 4294967296 := by
  have ha := a.isLt
  have hb := b.isLt
  have hc := c.isLt
  have hd := d.isLt
  refine ⟨?_, by unfold nat32 nat16; omega⟩
  simp only [be32, List.cons.injEq, and_true]
  refine ⟨?_, ?_, ?_, ?_⟩ <;> apply BitVec.eq_of_toNat_eq <;> rw [byteOf_mod] <;> unfold nat32 nat16 <;> omega

theorem get32_read {bs r : List Byte} {n : Nat} (h : get32 bs = some (n, r)) : bs = be32 n ++ r ∧ n < 4294967296 := by
  match bs, h with
  | a :: b :: c :: d :: bs, h =>
    simp only [get32, Option.some.injEq, Prod.mk.injEq] at h
    obtain ⟨rfl, rfl⟩ := h
    exact ⟨by rw [(nat32_read a b c d).1]; rfl, (nat32_read a b c d).2⟩

theorem getRun_read {n : Nat} {bs xs r : List Byte} (h : getRun n bs = some (xs, r)) : bs = xs ++ r ∧ xs.length = n := by
  unfold getRun at h
  split at h
  · simp only [Option.some.injEq, Prod.mk.injEq] at h
    obtain ⟨rfl, rfl⟩ := h
    exact ⟨(List.take_append_drop n bs).symm, by simpa⟩
  · cases h

theorem getTriple_read {bs r : List Byte} {t : Triple} (h : getTriple bs = some (t, r)) : bs = tripleBytes t ++ r := by
  match bs, h with
  | a :: b :: c :: bs, h =>
    simp only [getTriple, Option.some.injEq, Prod.mk.injEq] at h
    obtain ⟨rfl, rfl⟩ := h
    rfl

theorem words16_read (n : Nat) (xs : List Byte) (h : xs.length = 2 * n) :
    (words16 xs).flatMap be16 = xs ∧ (words16 xs).length = n ∧ ∀ w ∈ words16 xs, w < 65536 := by
  induction n generalizing xs with
  | zero => obtain rfl := List.eq_nil_of_length_eq_zero (by omega); simp [words16]
  | succ n ih =>
    match xs, h with
    | a :: b :: xs, h =>
      obtain ⟨e, l, f⟩ := ih xs (by simp at h; omega)
      obtain ⟨g, k⟩ := nat16_read a b
      simp only [words16, List.flatMap_cons, g, e, List.length_cons, l, List.mem_cons]
      exact ⟨rfl, trivial, fun w m => m.elim (fun x => x ▸ k) (f w)⟩

theorem triples_read (n : Nat) (xs : List Byte) (h : xs.length = 3 * n) :
    (triples xs).flatMap tripleBytes = xs ∧ (triples xs).length = n := by
  induction n generalizing xs with
  | zero => obtain rfl := List.eq_nil_of_length_eq_zero (by omega); simp [triples]
  | succ n ih =>
    match xs, h with
    | a :: b :: c :: xs, h =>
      obtain ⟨e, l⟩ := ih xs (by simp at h; omega)
      simp [triples, tripleBytes, e, l]

theorem bytes_read (xs : List Byte) : (xs.map BitVec.toNat).flatMap (fun n => [byteOf n]) = xs := by
  induction xs with
  | nil => rfl
  | cons a xs ih => simp [byteOf_read, ih]

theorem getList8_read {bs r : List Byte} {l : List Nat} (h : getList8 bs = some (l, r)) :
    bs = listBytes (fun n => [byteOf n]) l ++ r ∧ listOk fits8 l = true := by
  simp only [getList8, Option.bind_eq_bind, Option.bind_eq_some_iff, Prod.exists, Option.pure_def, Option.some.injEq,
    Prod.mk.injEq] at h
  obtain ⟨n, r1, h1, xs, r2, h2, rfl, rfl⟩ := h
  obtain ⟨rfl, hn⟩ := get8_read h1
  obtain ⟨rfl, rfl⟩ := getRun_read h2
  refine ⟨by simp [listBytes, bytes_read], (listOk_iff _ _).mpr ⟨by simpa using hn, ?_⟩⟩
  intro m hm
  obtain ⟨a, _, rfl⟩ := List.mem_map.mp hm
  simpa using a.isLt

theorem getList16_read {bs r : List Byte} {l : List Nat} (h : getList16 bs = some (l, r)) :
    bs = listBytes be16 l ++ r ∧ listOk fits16 l = true := by
  simp only [getList16, Option.bind_eq_bind, Option.bind_eq_some_iff, Prod.exists, Option.pure_def, Option.some.injEq,
    Prod.mk.injEq] at h
  obtain ⟨n, r1, h1, xs, r2, h2, rfl, rfl⟩ := h
  obtain ⟨rfl, hn⟩ := get8_read h1
  obtain ⟨rfl, e⟩ := getRun_read h2
  obtain ⟨w, l, f⟩ := words16_read n xs e
  exact ⟨by simp [listBytes, w, l], (listOk_iff _ _).mpr ⟨by omega, fun m hm => by simpa using f m hm⟩⟩

theorem getTriples_read {bs r : List Byte} {l : List Triple} (h : getTriples bs = some (l, r)) :
    bs = listBytes tripleBytes l ++ r ∧ l.length < 256 := by
  simp only [getTriples, Option.bind_eq_bind, Option.bind_eq_some_iff, Prod.exists, Option.pure_def, Option.some.injEq,
    Prod.mk.injEq] at h
  obtain ⟨n, r1, h1, xs, r2, h2, rfl, rfl⟩ := h
  obtain ⟨rfl, hn⟩ := get8_read h1
  obtain ⟨rfl, e⟩ := getRun_read h2
  obtain ⟨w, l⟩ := triples_read n xs e
  exact ⟨by simp [listBytes, w, l], by omega⟩

/-- A field read where its presence bit was set, by a reading that writing undoes. -/
theorem getIf_read {α : Type} {present : Bool} {read : List Byte → Option (α × List Byte)} {write : α → List Byte}
    {ok : α → Bool} (k : ∀ bs y r, read bs = some (y, r) → bs = write y ++ r ∧ ok y = true) {bs r : List Byte}
    {x : Option α} (h : getIf present read bs = some (x, r)) :
    bs = optBytes write x ++ r ∧ optOk ok x = true ∧ x.isSome = present := by
  cases present with
  | false =>
    simp only [getIf, Bool.false_eq_true, if_false, Option.some.injEq, Prod.mk.injEq] at h
    obtain ⟨rfl, rfl⟩ := h
    exact ⟨rfl, rfl, rfl⟩
  | true =>
    simp only [getIf, if_true, Option.bind_eq_bind, Option.bind_eq_some_iff, Prod.exists, Option.pure_def, Option.some.injEq,
      Prod.mk.injEq] at h
    obtain ⟨y, r1, h1, rfl, rfl⟩ := h
    exact ⟨(k _ _ _ h1).1, (k _ _ _ h1).2, rfl⟩

theorem atEnd_read {α : Type} {x y : α} {r : List Byte} (h : atEnd x r = some y) : x = y ∧ r = [] := by
  unfold atEnd at h
  split at h
  · next e => exact ⟨Option.some.inj h, List.isEmpty_iff.mp e⟩
  · cases h

theorem parse1_read {bs : List Byte} {n : Nat} (h : parse1 bs = some n) : bs = [byteOf n] ∧ n < 256 := by
  match bs, h with
  | [a], h =>
    obtain rfl := Option.some.inj h
    exact ⟨by rw [byteOf_read], a.isLt⟩

theorem parsePass_read {bs carried : List Byte} {n : Nat} (h : parsePass bs = some (n, carried)) :
    bs = byteOf n :: carried ∧ n < 256 := by
  match bs, h with
  | a :: bs, h =>
    simp only [parsePass, Option.some.injEq, Prod.mk.injEq] at h
    obtain ⟨rfl, rfl⟩ := h
    exact ⟨by rw [byteOf_read], a.isLt⟩

theorem parseConfigure_read {bs : List Byte} {n v : Nat} (h : parseConfigure bs = some (n, v)) :
    bs = byteOf n :: be32 v ∧ n < 256 ∧ v < 4294967296 := by
  simp only [parseConfigure, Option.bind_eq_bind, Option.bind_eq_some_iff, Prod.exists] at h
  obtain ⟨n', r1, h1, v', r2, h2, h3⟩ := h
  obtain ⟨e, rfl⟩ := atEnd_read h3
  cases e
  obtain ⟨rfl, a⟩ := get8_read h1
  obtain ⟨rfl, b⟩ := get32_read h2
  exact ⟨by simp, a, b⟩

theorem parseRead_read {bs : List Byte} {a b c d : Nat} (h : parseRead bs = some (a, b, c, d)) :
    bs = [byteOf a, byteOf b] ++ be16 c ++ be16 d ∧ a < 256 ∧ b < 256 ∧ c < 65536 ∧ d < 65536 := by
  simp only [parseRead, Option.bind_eq_bind, Option.bind_eq_some_iff, Prod.exists] at h
  obtain ⟨a', r1, h1, b', r2, h2, c', r3, h3, d', r4, h4, h5⟩ := h
  obtain ⟨e, rfl⟩ := atEnd_read h5
  cases e
  obtain ⟨rfl, ha⟩ := get8_read h1
  obtain ⟨rfl, hb⟩ := get8_read h2
  obtain ⟨rfl, hc⟩ := get16_read h3
  obtain ⟨rfl, hd⟩ := get16_read h4
  exact ⟨by simp, ha, hb, hc, hd⟩

/-- A presence byte with bit 7 clear is the one its present parameters write. -/
theorem presence_read (a : JobArgs) (n : Nat) (hn : n < 256) (b0 : a.levels.isSome = n.testBit 0)
    (b1 : a.samples.isSome = n.testBit 1) (b2 : a.target.isSome = n.testBit 2) (b3 : a.floorRatio.isSome = n.testBit 3)
    (b4 : a.tolerance.isSome = n.testBit 4) (b5 : a.iterLimit.isSome = n.testBit 5) (b6 : a.mask.isSome = n.testBit 6)
    (b7 : n.testBit 7 = false) : presence a = n := by
  simp only [presence, presenceBit, b0, b1, b2, b3, b4, b5, b6]
  clear b0 b1 b2 b3 b4 b5 b6 a
  revert n
  decide +kernel

theorem parseJobStart_read {bs : List Byte} {bay slot : Nat} {a : JobArgs} (h : parseJobStart bs = some (bay, slot, a)) :
    bs = [byteOf bay, byteOf slot, byteOf (presence a)] ++ argsBytes a ∧ bay < 256 ∧ slot < 256 ∧ a.wf = true := by
  simp only [parseJobStart, Option.bind_eq_bind, Option.bind_eq_some_iff, Prod.exists] at h
  obtain ⟨_, r1, h1, _, r2, h2, p, r3, h3, x0, r4, g0, x1, r5, g1, x2, r6, g2, x3, r7, g3, x4, r8, g4, x5, r9, g5, x6, r10,
    g6, h4⟩ := h
  split at h4
  · cases h4
  · next b7 =>
    obtain ⟨e, rfl⟩ := atEnd_read h4
    cases e
    have one (bs : List Byte) (y : Nat) (r : List Byte) (h : get8 bs = some (y, r)) :
        bs = [byteOf y] ++ r ∧ fits8 y = true := ⟨(get8_read h).1, by simpa using (get8_read h).2⟩
    have two (bs : List Byte) (y : Nat) (r : List Byte) (h : get16 bs = some (y, r)) :
        bs = be16 y ++ r ∧ fits16 y = true := ⟨(get16_read h).1, by simpa using (get16_read h).2⟩
    have list (bs : List Byte) (y : List Nat) (r : List Byte) (h : getList16 bs = some (y, r)) := getList16_read h
    obtain ⟨rfl, hb⟩ := get8_read h1
    obtain ⟨rfl, hs⟩ := get8_read h2
    obtain ⟨rfl, hp⟩ := get8_read h3
    obtain ⟨rfl, w0, b0⟩ := getIf_read (ok := listOk fits16) list g0
    obtain ⟨rfl, w1, b1⟩ := getIf_read (write := fun n => [byteOf n]) (ok := fits8) one g1
    obtain ⟨rfl, w2, b2⟩ := getIf_read (ok := fits16) two g2
    obtain ⟨rfl, w3, b3⟩ := getIf_read (ok := fits16) two g3
    obtain ⟨rfl, w4, b4⟩ := getIf_read (write := fun n => [byteOf n]) (ok := fits8) one g4
    obtain ⟨rfl, w5, b5⟩ := getIf_read (write := fun n => [byteOf n]) (ok := fits8) one g5
    obtain ⟨rfl, w6, b6⟩ := getIf_read (ok := listOk fits16) list g6
    refine ⟨?_, hb, hs, by simp only [JobArgs.wf, w0, w1, w2, w3, w4, w5, w6, Bool.and_self]⟩
    rw [presence_read _ p hp b0 b1 b2 b3 b4 b5 b6 (by simpa using b7)]
    simp [argsBytes]

theorem parseKeyLoad_read {bs : List Byte} {k : KeyFields} (h : parseKeyLoad bs = some k) (hl : bs.length ≤ 1017) :
    bs = keyBytes k ∧ k.wf = true := by
  simp only [parseKeyLoad, Option.bind_eq_bind, Option.bind_eq_some_iff, Prod.exists, Option.pure_def, Option.some.injEq] at h
  obtain ⟨id, r1, h1, cls, r2, h2, batch, r3, h3, regs, r4, h4, len, r5, h5, chk, r6, h6, rfl⟩ := h
  obtain ⟨rfl, a⟩ := get32_read h1
  obtain ⟨rfl, b⟩ := get8_read h2
  obtain ⟨rfl, c⟩ := get16_read h3
  obtain ⟨rfl, d⟩ := getTriples_read h4
  obtain ⟨rfl, e⟩ := get16_read h5
  obtain ⟨rfl, f⟩ := get32_read h6
  have g : (BitVec.ofNat 32 chk).toNat = chk := by simpa using Nat.mod_eq_of_lt f
  have m : (listBytes tripleBytes regs).length = 1 + 3 * regs.length := by
    simp only [listBytes, List.length_cons, flatMap_length tripleBytes 3 (fun _ => rfl)]
    omega
  have n16 (x : Nat) : (be16 x).length = 2 := rfl
  have n32 (x : Nat) : (be32 x).length = 4 := rfl
  simp only [List.length_append, List.length_cons, m, n16, n32] at hl
  refine ⟨by simp only [keyBytes, g, List.append_assoc, List.cons_append, List.nil_append], ?_⟩
  simp only [KeyFields.wf, fits32, fits8, fits16, Bool.and_eq_true, decide_eq_true_eq]
  exact ⟨⟨⟨⟨⟨a, b⟩, d⟩, c⟩, e⟩, by omega⟩

theorem parseProfile_read {bs : List Byte} {slot : Nat} {p : ProfileFields} (h : parseProfile bs = some (slot, p)) :
    bs = byteOf slot :: profileBytes p ∧ slot < 256 ∧ p.wf = true := by
  simp only [parseProfile, Option.bind_eq_bind, Option.bind_eq_some_iff, Prod.exists] at h
  obtain ⟨_, r1, h1, t, r2, h2, sy, r3, h3, la, r4, h4, ra, r5, h5, dr, r6, h6, ca, r7, h7, cl, r8, h8, h9⟩ := h
  obtain ⟨e, rfl⟩ := atEnd_read h9
  cases e
  obtain ⟨rfl, a⟩ := get8_read h1
  obtain rfl := getTriple_read h2
  obtain ⟨rfl, b⟩ := getList8_read h3
  obtain ⟨rfl, c⟩ := getTriples_read h4
  obtain ⟨rfl, d⟩ := get8_read h5
  obtain ⟨rfl, f⟩ := get8_read h6
  obtain ⟨rfl, g⟩ := get16_read h7
  obtain ⟨rfl, i⟩ := getList8_read h8
  refine ⟨by simp [profileBytes], a, ?_⟩
  simp only [ProfileFields.wf, b, i, fits8, fits16, Bool.and_eq_true, decide_eq_true_eq]
  exact ⟨⟨⟨⟨⟨trivial, c⟩, d⟩, f⟩, g⟩, trivial⟩

theorem parseClass_read {bs : List Byte} {id : Nat} {c : ClassFields} (h : parseClass bs = some (id, c)) :
    bs = byteOf id :: classBytes c ∧ id < 256 ∧ c.wf = true := by
  simp only [parseClass, Option.bind_eq_bind, Option.bind_eq_some_iff, Prod.exists] at h
  obtain ⟨_, r1, h1, co, r2, h2, ro, r3, h3, se, r4, h4, th, r5, h5, st, r6, h6, pa, r7, h7, h8⟩ := h
  obtain ⟨e, rfl⟩ := atEnd_read h8
  cases e
  obtain ⟨rfl, a⟩ := get8_read h1
  obtain ⟨rfl, b⟩ := get8_read h2
  obtain ⟨rfl, d⟩ := get8_read h3
  obtain ⟨rfl, f⟩ := get16_read h4
  obtain ⟨rfl, g⟩ := get16_read h5
  obtain ⟨rfl, i⟩ := get8_read h6
  obtain ⟨rfl, j⟩ := get16_read h7
  have k : (BitVec.ofNat 16 pa).toNat = pa := by simpa using Nat.mod_eq_of_lt j
  refine ⟨by simp only [classBytes, k, List.append_nil, List.append_assoc, List.cons_append, List.nil_append], a, ?_⟩
  simp only [ClassFields.wf, fits8, fits16, Bool.and_eq_true, decide_eq_true_eq]
  exact ⟨⟨⟨⟨b, d⟩, f⟩, g⟩, i⟩

/-- The modes of a key stock request's body and what each carries (R187). -/
theorem parseWithdraw_read {bs : List Byte} {x : StockAsk} (h : parseWithdraw bs = some x) :
    (∃ id, x = .byId id ∧ bs = 0 :: be32 id ∧ id < 4294967296) ∨ (∃ n, x = .byBatch n ∧ bs = 1 :: be16 n ∧ n < 65536) := by
  simp only [parseWithdraw, Option.bind_eq_bind, Option.bind_eq_some_iff, Prod.exists] at h
  obtain ⟨m, r, h1, h2⟩ := h
  obtain ⟨rfl, _⟩ := get8_read h1
  split at h2
  · simp only [Option.bind_eq_some_iff, Prod.exists] at h2
    obtain ⟨id, r2, h3, h4⟩ := h2
    obtain ⟨rfl, rfl⟩ := atEnd_read h4
    obtain ⟨rfl, a⟩ := get32_read h3
    exact .inl ⟨id, rfl, by simp [byteOf], a⟩
  · simp only [Option.bind_eq_some_iff, Prod.exists] at h2
    obtain ⟨n, r2, h3, h4⟩ := h2
    obtain ⟨rfl, rfl⟩ := atEnd_read h4
    obtain ⟨rfl, a⟩ := get16_read h3
    exact .inr ⟨n, rfl, by simp [byteOf], a⟩
  · cases h2

theorem parsePurge_read {bs : List Byte} {x : StockAsk} (h : parsePurge bs = some x) :
    (x = .everything ∧ bs = [0]) ∨ (∃ n, x = .byBatch n ∧ bs = 1 :: be16 n ∧ n < 65536) := by
  simp only [parsePurge, Option.bind_eq_bind, Option.bind_eq_some_iff, Prod.exists] at h
  obtain ⟨m, r, h1, h2⟩ := h
  obtain ⟨rfl, _⟩ := get8_read h1
  split at h2
  · obtain ⟨rfl, rfl⟩ := atEnd_read h2
    exact .inl ⟨rfl, by simp [byteOf]⟩
  · simp only [Option.bind_eq_some_iff, Prod.exists] at h2
    obtain ⟨n, r2, h3, h4⟩ := h2
    obtain ⟨rfl, rfl⟩ := atEnd_read h4
    obtain ⟨rfl, a⟩ := get16_read h3
    exact .inr ⟨n, rfl, by simp [byteOf], a⟩
  · cases h2

theorem parseQuery_read {bs : List Byte} {x : StockAsk} (h : parseQuery bs = some x) :
    (x = .everything ∧ bs = [0]) ∨
    (∃ start count, x = .run start count ∧ bs = 1 :: be32 start ++ [byteOf count] ∧ start < 4294967296 ∧ count < 256) ∨
    (∃ id, x = .byId id ∧ bs = 2 :: be32 id ∧ id < 4294967296) := by
  simp only [parseQuery, Option.bind_eq_bind, Option.bind_eq_some_iff, Prod.exists] at h
  obtain ⟨m, r, h1, h2⟩ := h
  obtain ⟨rfl, _⟩ := get8_read h1
  split at h2
  · obtain ⟨rfl, rfl⟩ := atEnd_read h2
    exact .inl ⟨rfl, by simp [byteOf]⟩
  · simp only [Option.bind_eq_some_iff, Prod.exists] at h2
    obtain ⟨st, r2, h3, co, r3, h4, h5⟩ := h2
    obtain ⟨rfl, rfl⟩ := atEnd_read h5
    obtain ⟨rfl, a⟩ := get32_read h3
    obtain ⟨rfl, b⟩ := get8_read h4
    exact .inr (.inl ⟨st, co, rfl, by simp [byteOf], a, b⟩)
  · simp only [Option.bind_eq_some_iff, Prod.exists] at h2
    obtain ⟨id, r2, h3, h4⟩ := h2
    obtain ⟨rfl, rfl⟩ := atEnd_read h4
    obtain ⟨rfl, a⟩ := get32_read h3
    exact .inr (.inr ⟨id, rfl, by simp [byteOf], a⟩)
  · cases h2

end Sys2Proof.Machine
end

