-- ==== Sys2Proof/Tests/Slice0.lean ====
section
/-! SUPPORT. Tests: ill-formed commands, check values, and for each statement with hypotheses concrete states and operands that
meet them, clause by clause at a boundary value, with what the statement then says. -/

namespace Sys2Proof.Tests

open Sys2Proof Sys2Proof.Machine

/-! ## Small states -/

/-- The state a command answers with. -/
def after (i : Instr) (s : State) : State :=
  match exec i s with
  | .next t => t
  | .fault _ => s
  | .refused _ => s

/-- Text as bytes. -/
def text (l : List Nat) : List Byte := l.map byteOf

def regionA : Triple := { a := 65, b := 65, c := 65 }
def regionB : Triple := { a := 66, b := 66, c := 66 }
def german : Triple := { a := 100, b := 101, c := 0 }

/-- A profile at the lower ends of its ranges (R157). -/
def profileA : ProfileFields :=
  { region := regionA, systems := [1], languages := [german], frameRate := 50, drive := 0, powerCap := 20, keyClasses := [1] }

/-- A panel class of 4 by 3 zones that allows every pair (R158). -/
def classA : ClassFields := { cols := 4, rows := 3, settle := 20, threshold := 512, initStep := 1, pairs := 0x0FFF }

def identityA : Identity := { serial := text [83, 49], classId := 1, caps := [regionA] }

def paramsA : JobParams :=
  { levels := [64], samples := 1, target := 850, floorRatio := 700, tolerance := 0, iterLimit := 1, mask := [] }

def jobA (st : Stage) : Job :=
  { slot := 0, params := paramsA, stage := st, cursor := 0, overtime := 0, pass := 0, keyCursor := 0, attempts := 0,
    keyId := none, verdict := none, solveKind := .first }

def tableA : Table :=
  { profiles := Table.reset.profiles.set 0 { content := some profileA, refs := 0 },
    classes := Table.reset.classes.set 0 { content := some classA, refs := 0 } }

/-- A port whose set answers, its clocks running since instant 0. -/
def portA : Port := { Port.reset with linkAlive := true, keepClock := .running 0 0, lapseClock := .running 0 0 }

/-- 100 ms after power-on: bay 0 READY with a set, its slots LOADED, its probe warm. -/
def readyA : State :=
  ((({ State.reset with now := ms 100, table := tableA }.setBay 0
    { BayRec.reset with state := .ready, identity := some identityA }).setPort 0 portA).setProbe 0
    { Probe.reset with warm := .warm })

/-- The same bay in another state. -/
def inState (st : BayState) : State := readyA.setBay 0 { readyA.bay 0 with state := st }

/-- The same bay RUNNING a job. -/
def running (j : Job) : State := readyA.setBay 0 { readyA.bay 0 with state := .running, job := some j }

/-- A request outstanding on bay 0's port, its answer timeout at the instant given. -/
def outstanding (what : ReqWhat) (owner : Owner) (deadline : Nat) (s : State) : State :=
  s.setPort 0 { s.port 0 with outstanding := some { req := { what := what, owner := owner, body := [] }, deadline := deadline } }

/-- The frame of a set's answer (R189). -/
def answer (payload : List Nat) : List Byte := frameBytes setStart (text payload)

/-! ## Ill-formed commands -/

theorem test_illFormed_tags : Instr.wf (.ident 0) = false ∧ Instr.wf (.ident 256) = false ∧ Instr.wf (.status 0) = false ∧
    Instr.wf (.resetFull 0) = false ∧ Instr.wf (.resetBays 256) = false ∧ Instr.wf (.ident 255) = true := by decide

theorem test_illFormed_configure : Instr.wf (.configure 0 1 5) = false ∧ Instr.wf (.configure 1 256 5) = false ∧
    Instr.wf (.configure 1 1 4294967296) = false ∧ Instr.wf (.configure 1 255 4294967295) = true := by decide

/-- No job parameter is given. -/
def noArgs : JobArgs :=
  { levels := none, samples := none, target := none, floorRatio := none, tolerance := none, iterLimit := none, mask := none }

theorem test_illFormed_jobStart :
    Instr.wf (.jobStart 0 0 0 noArgs) = false ∧ Instr.wf (.jobStart 1 256 0 noArgs) = false ∧
    Instr.wf (.jobStart 1 0 256 noArgs) = false ∧ Instr.wf (.jobStart 1 0 0 { noArgs with levels := some [65536] }) = false ∧
    Instr.wf (.jobStart 1 0 0 { noArgs with levels := some (List.replicate 256 0) }) = false ∧
    Instr.wf (.jobStart 1 0 0 { noArgs with samples := some 256 }) = false ∧
    Instr.wf (.jobStart 1 0 0 { noArgs with target := some 65536 }) = false ∧
    Instr.wf (.jobStart 1 0 0 { noArgs with floorRatio := some 65536 }) = false ∧
    Instr.wf (.jobStart 1 0 0 { noArgs with tolerance := some 256 }) = false ∧
    Instr.wf (.jobStart 1 0 0 { noArgs with iterLimit := some 256 }) = false ∧
    Instr.wf (.jobStart 1 0 0 { noArgs with mask := some [65536] }) = false ∧
    Instr.wf (.jobStart 1 0 0 { noArgs with levels := some [65535], mask := some [] }) = true := by decide +kernel

theorem test_illFormed_bayRequests : Instr.wf (.jobAbort 1 256) = false ∧ Instr.wf (.bayResume 1 256) = false ∧
    Instr.wf (.bayRelease 1 256) = false ∧ Instr.wf (.bayPark 1 256) = false ∧ Instr.wf (.bayUnpark 1 256) = false ∧
    Instr.wf (.bayQuery 1 256) = false ∧ Instr.wf (.tunnelEnter 1 256) = false ∧ Instr.wf (.tunnelExit 1 256) = false ∧
    Instr.wf (.jobAbort 0 0) = false ∧ Instr.wf (.bayResume 0 0) = false ∧ Instr.wf (.bayRelease 0 0) = false ∧
    Instr.wf (.bayPark 0 0) = false ∧ Instr.wf (.bayUnpark 0 0) = false ∧ Instr.wf (.bayQuery 0 0) = false ∧
    Instr.wf (.tunnelEnter 0 0) = false ∧ Instr.wf (.tunnelExit 0 0) = false := by decide

theorem test_illFormed_passAndReads : Instr.wf (.tunnelPass 1 0 (List.replicate 1017 0)) = false ∧
    Instr.wf (.tunnelPass 0 0 []) = false ∧ Instr.wf (.tunnelPass 1 256 []) = false ∧
    Instr.wf (.sheetRead 0 0 0 0 1) = false ∧ Instr.wf (.sheetRead 1 256 0 0 1) = false ∧
    Instr.wf (.sheetRead 1 0 256 0 1) = false ∧ Instr.wf (.sheetRead 1 0 0 65536 1) = false ∧
    Instr.wf (.sheetRead 1 0 0 0 65536) = false ∧ Instr.wf (.mapRead 0 0 0 0 1) = false ∧
    Instr.wf (.mapRead 1 256 0 0 1) = false ∧ Instr.wf (.mapRead 1 0 256 0 1) = false ∧
    Instr.wf (.mapRead 1 0 0 65536 1) = false ∧ Instr.wf (.mapRead 1 0 0 0 65536) = false := by decide +kernel

/-- A key of 16 blob bytes for every region. -/
def keyA : KeyFields :=
  { keyId := 7, cls := 1, regions := [], batch := 9, blobLen := 16, check := crc32 (List.replicate 16 0),
    blob := List.replicate 16 0 }

theorem test_illFormed_stock :
    Instr.wf (.keyLoad 0 keyA) = false ∧ Instr.wf (.keyLoad 1 { keyA with keyId := 4294967296 }) = false ∧
    Instr.wf (.keyLoad 1 { keyA with cls := 256 }) = false ∧ Instr.wf (.keyLoad 1 { keyA with batch := 65536 }) = false ∧
    Instr.wf (.keyLoad 1 { keyA with blobLen := 65536 }) = false ∧
    Instr.wf (.keyLoad 1 { keyA with regions := List.replicate 256 regionA }) = false ∧
    Instr.wf (.keyLoad 1 { keyA with blob := List.replicate 1004 0 }) = false ∧
    Instr.wf (.keyWithdrawById 1 4294967296) = false ∧ Instr.wf (.keyWithdrawByBatch 1 65536) = false ∧
    Instr.wf (.keyPurgeAll 0) = false ∧ Instr.wf (.keyPurgeBatch 1 65536) = false ∧ Instr.wf (.stockQueryCounts 0) = false ∧
    Instr.wf (.stockQueryRun 1 4294967296 1) = false ∧ Instr.wf (.stockQueryRun 1 0 256) = false ∧
    Instr.wf (.stockQueryRecord 1 4294967296) = false ∧ Instr.wf (.keyLoad 1 keyA) = true := by decide +kernel

theorem test_illFormed_table :
    Instr.wf (.profileLoad 1 256 profileA) = false ∧ Instr.wf (.profileLoad 1 0 { profileA with systems := [256] }) = false ∧
    Instr.wf (.profileLoad 1 0 { profileA with languages := List.replicate 256 german }) = false ∧
    Instr.wf (.profileLoad 1 0 { profileA with frameRate := 256 }) = false ∧
    Instr.wf (.profileLoad 1 0 { profileA with drive := 256 }) = false ∧
    Instr.wf (.profileLoad 1 0 { profileA with powerCap := 65536 }) = false ∧
    Instr.wf (.profileLoad 1 0 { profileA with keyClasses := [256] }) = false ∧ Instr.wf (.profileDrop 1 256) = false ∧
    Instr.wf (.classLoad 1 256 classA) = false ∧ Instr.wf (.classLoad 1 1 { classA with cols := 256 }) = false ∧
    Instr.wf (.classLoad 1 1 { classA with rows := 256 }) = false ∧
    Instr.wf (.classLoad 1 1 { classA with settle := 65536 }) = false ∧
    Instr.wf (.classLoad 1 1 { classA with threshold := 65536 }) = false ∧
    Instr.wf (.classLoad 1 1 { classA with initStep := 256 }) = false ∧ Instr.wf (.classDrop 1 256) = false ∧
    Instr.wf (.profileLoad 1 0 profileA) = true ∧ Instr.wf (.classLoad 1 1 classA) = true := by decide +kernel

/-! ## Check values -/

theorem test_crc16_ofTheStandardText : crc16 (text [49, 50, 51, 52, 53, 54, 55, 56, 57]) = 0x29B1 := by decide +kernel

theorem test_crc32_ofTheStandardText : crc32 (text [49, 50, 51, 52, 53, 54, 55, 56, 57]) = 0xCBF43926 := by decide +kernel

/-! ## Requests at dispatch -/

/-- The state after reset with as many entries of the outbound queue occupied. -/
def occupying (n : Nat) : State := State.reset.setLink { State.reset.link with placed := [], setAside := n }

/-- The state after reset with a frame in the input buffer. -/
def buffering (f : InFrame) : State := State.reset.setLink { State.reset.link with inBuf := [f] }

theorem test_tagZero : requestHead (.ident 0) = some (1, 0) ∧ (occupying 31).entryFree ∧
    after (.ident 0) (occupying 31) = (occupying 31).withReply 1 0 .badField [] := by
  unfold State.entryFree; decide +kernel

theorem test_waitingForAnEntry :
    ¬ (occupying 32).entryFree ∧ (requestHead (.ident 1)).isSome = true ∧ after (.ident 1) (occupying 32) = occupying 32 ∧
    after .dispatch (occupying 32) = occupying 32 ∧
    ∀ s, s = readyA.setLink { readyA.link with resetPending := true } →
      ¬ s.entryFree ∧ after (.bayPark 1 0) s = s ∧ after .dispatch s = s := by
  unfold State.entryFree; exact ⟨by decide, by decide, by decide +kernel, by decide +kernel, by rintro _ rfl; decide +kernel⟩

theorem test_dispatchJudges :
    State.reset.entryFree ∧ after .dispatch State.reset = State.reset ∧
    after .dispatch (buffering { kind := 1, tag := 0, body := [] }) = State.reset.withReply 1 0 .badField [] ∧
    after .dispatch (buffering { kind := 5, tag := 1, body := [] }) = State.reset.withReply 5 1 .badKind [] ∧
    after .dispatch (buffering { kind := 32, tag := 255, body := [1] }) = State.reset.withReply 32 255 .badKind [] := by
  unfold State.entryFree; decide +kernel

/-- A body that no well-formed request of its kind spells is replied BAD_FIELD and leaves the buffer. -/
def Malformed (kind : Nat) (body : List Byte) : Prop :=
  (∀ i, requestHead i = some (kind, 1) → i.wf = true → requestBody i ≠ body) ∧ body.length ≤ 1017 ∧
  after .dispatch (buffering { kind := byteOf kind, tag := 1, body := body }) = State.reset.withReply kind 1 .badField []

/-- JOB ABORT too short and too long by the most a frame holds; RESET and KEY PURGE with a scope and a mode not named. -/
theorem test_malformedBodies :
    Malformed 9 [] ∧ Malformed 9 (List.replicate 1017 0) ∧ Malformed 4 [2] ∧ Malformed 26 [2] := by
  have bodyLength : ∀ i, requestHead i = some (9, 1) → (requestBody i).length = 1 := by
    intro i h
    cases i <;> simp [requestHead] at h
    rfl
  refine ⟨⟨?_, by decide, by decide +kernel⟩, ⟨?_, by decide +kernel, by decide +kernel⟩, ⟨?_, by decide, by decide +kernel⟩,
    ⟨?_, by decide, by decide +kernel⟩⟩ <;> intro i h _ e
  · have l := bodyLength i h
    rw [e] at l
    cases l
  · have l := bodyLength i h
    rw [e, List.length_replicate] at l
    omega
  all_goals cases i <;> simp [requestHead] at h <;> simp [requestBody] at e

/-- A JOB START whose level list has one level fewer than its count. -/
theorem test_malformedList : Malformed 8 (text [0, 0, 1, 2, 0, 64]) := by
  refine ⟨?_, by decide, by decide +kernel⟩
  intro i h w e
  cases i with
  | jobStart tag bay slot args =>
    simp only [Instr.wf, Bool.and_eq_true, decide_eq_true_eq] at w
    have k := parseJobStart_write w.1.1.2 w.1.2 w.2
    rw [show [byteOf bay, byteOf slot, byteOf (presence args)] ++ argsBytes args = text [0, 0, 1, 2, 0, 64] from e] at k
    have n : parseJobStart (text [0, 0, 1, 2, 0, 64]) = none := by decide +kernel
    exact absurd (k.symm.trans n) (by simp)
  | _ => simp [requestHead] at h

/-- A request with every optional field, and one whose body has a list of lists. -/
theorem test_dispatchRunsTheFrame :
    (∀ i, i = Instr.jobStart 255 3 15 { noArgs with levels := some [64, 1023], mask := some [65535], tolerance := some 255 } →
      requestHead i = some (8, 255) ∧ i.wf = true ∧ (buffering (requestFrame 8 255 (requestBody i))).entryFree ∧
      after .dispatch (buffering (requestFrame 8 255 (requestBody i))) = after i State.reset) ∧
    (∀ i, i = Instr.profileLoad 1 15 profileA → requestHead i = some (28, 1) ∧ i.wf = true ∧
      after .dispatch (buffering (requestFrame 28 1 (requestBody i))) = after i State.reset) := by
  unfold State.entryFree
  exact ⟨by rintro _ rfl; decide +kernel, by rintro _ rfl; decide +kernel⟩

theorem test_bayNumberOutside : readyA.entryFree ∧ after (.bayPark 1 4) readyA = readyA.withReply 12 1 .badField [] ∧
    after (.tunnelPass 1 255 [1]) readyA = readyA.withReply 17 1 .badField [] := by
  unfold State.entryFree; decide +kernel

/-! ## Station and line link -/

theorem test_identOfReset : State.reset.entryFree ∧ (after (.ident 1) State.reset).link.placed.length = 2 ∧
    (after (.ident 1) { State.reset with now := ms 4294967296 }).link.placed.getLast? =
      (after (.ident 1) State.reset).link.placed.getLast? := by
  unfold State.entryFree; decide +kernel

theorem test_statusClearsCounts :
    ∀ s, s = State.reset.setLink { State.reset.link with lost := 65535, errs := { length := 1, crc := 2, brk := 3, overrun := 4 } } →
      s.entryFree ∧ (after (.status 255) s).link.lost = 0 ∧ (after (.status 255) s).link.errs.overrun = 0 := by
  rintro _ rfl; unfold State.entryFree; decide +kernel

theorem test_configureRefused :
    readyA.entryFree ∧ after (.configure 1 0 5) readyA = readyA.withReply 3 1 .badField [] ∧
    after (.configure 1 11 5) readyA = readyA.withReply 3 1 .badField [] ∧
    (∃ b, ((running (jobA .region)).bay b).state = .running) ∧
    after (.configure 1 1 30) (running (jobA .region)) = (running (jobA .region)).withReply 3 1 .badState [] ∧
    (∀ b, (readyA.bay b).state ≠ .running ∧ (readyA.bay b).state ≠ .tunnel) ∧
    ¬ paramAdmitted readyA.link.params 1 4 ∧ after (.configure 1 1 4) readyA = readyA.withReply 3 1 .badField [] ∧
    ¬ paramAdmitted readyA.link.params 4 1600 ∧ after (.configure 1 4 1600) readyA = readyA.withReply 3 1 .badField [] ∧
    ¬ paramAdmitted readyA.link.params 7 149 ∧ after (.configure 1 7 149) readyA = readyA.withReply 3 1 .badField [] := by
  unfold State.entryFree paramAdmitted; and_intros <;> decide +kernel

theorem test_configureInForce :
    paramAdmitted readyA.link.params 1 600 ∧ (after (.configure 1 1 600) readyA).link.params.watchDown = 600 ∧
    paramAdmitted readyA.link.params 4 1500 ∧ (after (.configure 1 4 1500) readyA).link.params.keepInterval = 1500 ∧
    paramAdmitted readyA.link.params 4 200 ∧ (after (.configure 1 4 200) readyA).link.params.keepInterval = 200 ∧
    paramAdmitted readyA.link.params 5 1300 ∧
    (after (.configure 1 5 1300) readyA).link.placed.getLast? = some (.reply 3 1 .ok [5, 0, 0, 5, 20]) := by
  unfold paramAdmitted; and_intros <;> decide +kernel

/-- A shorter interval is in force at once: with the keep-alive clock at 200 ms its KEEP goes out after the reply. -/
theorem test_configureSendsTheKeep :
    paramAdmitted readyA.link.params 4 200 ∧
    (((after (.configure 1 4 200) { readyA with now := ms 200 }).port 0).outstanding.map (fun o => o.req.what)) = some .keep ∧
    ((after (.configure 1 4 200) { readyA with now := ms 200 - 1 }).port 0).outstanding = none := by
  unfold paramAdmitted; and_intros <;> decide +kernel

theorem test_resetFull : State.reset.entryFree ∧ (after (.resetFull 1) State.reset).link.resetPending = true ∧
    (after (.ident 1) (after (.resetFull 1) State.reset)) = after (.resetFull 1) State.reset := by
  unfold State.entryFree; decide +kernel

/-- STARTED leaves; nothing is left to leave; the last message before a reset leaves and the reset comes. -/
theorem test_messagesLeave :
    (after .outboundMessageSent State.reset).link.placed = [] ∧
    after .outboundMessageSent (after .outboundMessageSent State.reset) = after .outboundMessageSent State.reset ∧
    (after .outboundMessageSent (after (.resetFull 1) readyA)).link.placed = [.reply 4 1 .ok []] ∧
    (∀ s, s = after .outboundMessageSent (after .outboundMessageSent (after (.resetFull 1) readyA)) →
      s.link.placed = [.notice false (.started .resetFull)] ∧ s.now = 0 ∧ (s.bay 0).state = .empty) := by
  refine ⟨by decide +kernel, by decide +kernel, by decide +kernel, ?_⟩
  rintro _ rfl; decide +kernel

theorem test_powerOn : after .powerOn readyA = State.reset ∧
    (after .powerOn { readyA with pending := [.powerOn] }).pending = [.powerOn] := by
  decide +kernel

/-- The receiver in a phase. -/
def receiving (r : Receiver) (s : State) : State := s.setLink { s.link with rx := r }

theorem test_receiverPhases :
    State.reset.link.rx = .hunt ∧ State.reset.link.resetPending = false ∧
    after (.lineByteReceived 164) State.reset = State.reset ∧
    (after (.lineByteReceived 165) State.reset).link.rx = .length [] ∧
    (after (.lineByteReceived 3) (receiving (.length []) State.reset)).link.rx = .length [3] ∧
    (after (.lineByteReceived 4) (receiving (.length [0]) State.reset)).link.rx = .frame 4 [] ∧
    (after (.lineByteReceived 253) (receiving (.length [3]) State.reset)).link.rx = .frame 1021 [] ∧
    (after (.lineByteReceived 3) (receiving (.length [0]) State.reset)).link.errs.length = 1 ∧
    (after (.lineByteReceived 254) (receiving (.length [3]) State.reset)).link.errs.length = 1 ∧
    (after (.lineByteReceived 254) (receiving (.length [3]) State.reset)).link.rx = .hunt ∧
    (after (.lineByteReceived 9) (receiving (.frame 4 [1, 1]) State.reset)).link.rx = .frame 4 [1, 1, 9] ∧
    (after (.lineByteReceived 165) (receiving .hunt (after (.resetFull 1) State.reset))).link.rx = .hunt := by
  decide +kernel

/-- A frame of IDENT, tag 1, and its CRC. -/
theorem test_frameComplete :
    be16 (crc16 (be16 4 ++ [1, 1])).toNat = [123, 16] ∧
    (after (.lineByteReceived 16) (receiving (.frame 4 [1, 1, 123]) State.reset)).link.inBuf =
      [{ kind := 1, tag := 1, body := [] }] ∧
    (after (.lineByteReceived 17) (receiving (.frame 4 [1, 1, 123]) State.reset)).link.errs.crc = 1 ∧
    (∀ s, s = receiving (.frame 4 [1, 1, 123])
        (State.reset.setLink { State.reset.link with inBuf := List.replicate 4 { kind := 1, tag := 1, body := [] } }) →
      (after (.lineByteReceived 16) s).link.errs.overrun = 1 ∧ (after (.lineByteReceived 16) s).link.inBuf.length = 4 ∧
      (after (.lineByteReceived 16) s).link.placed.getLast? = some (.notice false (.linkError (.overrun 1 1)))) := by
  refine ⟨by decide +kernel, by decide +kernel, by decide +kernel, ?_⟩
  rintro _ rfl; decide +kernel

theorem test_frameByteByByte :
    frameBytes 165 [1, 1] = [165, 0, 4, 1, 1, 123, 16] ∧
    execAll ([165, 0, 4, 1, 1, 123, 16].map .lineByteReceived) State.reset = some (buffering { kind := 1, tag := 1, body := [] }) := by
  decide +kernel

theorem test_break :
    (after .lineBreak State.reset).link.placed.getLast? = some (.notice false (.linkError (.brk false))) ∧
    (after .lineBreak (receiving (.length []) State.reset)).link.placed.getLast? = some (.notice false (.linkError (.brk true))) ∧
    (after .lineBreak (receiving (.frame 4 []) State.reset)).link.rx = .hunt ∧
    (after .lineBreak (receiving (.frame 4 []) State.reset)).link.errs.brk = 1 := by
  decide +kernel

theorem test_noticesPlacedOrCounted :
    ((occupying 27).link.offerNotice (.started .powerOn)).placed = [.notice false (.started .powerOn)] ∧
    ((occupying 28).link.offerNotice (.started .powerOn)).placed = [] ∧
    ((occupying 28).link.offerNotice (.started .powerOn)).lostPending = true ∧
    ({ (occupying 27).link with lostPending := true }.offerNotice (.started .powerOn)).placed =
      [.notice true (.started .powerOn)] ∧
    ({ (occupying 32).link with lost := 65535 }.offerNotice (.started .powerOn)).lost = 65535 := by
  decide +kernel

/-! ## Requests to a bay -/

theorem test_park :
    readyA.entryFree ∧ (readyA.bay 1).state = .empty ∧ ((after (.bayPark 1 1) readyA).bay 1).state = .parked ∧
    ((after (.bayPark 1 1) readyA).poller 1).next = none ∧ ((after (.bayPark 1 1) readyA).probe 1).warm = .stopped ∧
    after (.bayPark 1 0) readyA = readyA.withReply 12 1 .badState [] := by
  unfold State.entryFree; decide +kernel

theorem test_unpark :
    ((after (.bayUnpark 2 1) (after (.bayPark 1 1) readyA)).bay 1).state = .empty ∧
    ((after (.bayUnpark 2 1) (after (.bayPark 1 1) readyA)).poller 1).next = some (ms 100) ∧
    after (.bayUnpark 1 3) readyA = readyA.withReply 13 1 .badState [] ∧
    after (.bayUnpark 1 4) readyA = readyA.withReply 13 1 .badField [] := by
  decide +kernel

theorem test_bayQuery :
    ∀ s, s = readyA.setBay 0 { readyA.bay 0 with discarded := 65535, requests := 1 } →
      ((after (.bayQuery 1 0) s).bay 0).discarded = 0 ∧
      (after (.bayQuery 1 0) s).link.placed.getLast? =
        some (.reply 14 1 .ok ([3, 255, 0, 0, 1, 0, 2, 83, 49, 1, 1, 65, 65, 65] ++ jobBody none ++
          [0, 255, 255, 0, 0, 0, 0, 0, 1])) := by
  rintro _ rfl; decide +kernel

/-- Bay 0 in TUNNEL with a pass state. -/
def tunnelling (p : PassState) : State :=
  (inState .tunnel).setPort 0 { portA with tunnel := some { trap := 65535, fwd := 3, pass := p } }

theorem test_tunnelEnter :
    readyA.entryFree ∧ ((after (.tunnelEnter 1 0) readyA).bay 0).state = .tunnel ∧
    ((after (.tunnelEnter 1 0) readyA).port 0).tunnel = some { trap := 0, fwd := 0, pass := .none } ∧
    after (.tunnelEnter 1 1) readyA = readyA.withReply 16 1 .badState [] := by
  unfold State.entryFree; decide +kernel

theorem test_tunnelExit :
    (tunnelling .none).entryFree ∧ ((after (.tunnelExit 1 0) (tunnelling .none)).bay 0).state = .ready ∧
    (after (.tunnelExit 1 0) (tunnelling .none)).link.placed.getLast? = some (.reply 18 1 .ok [255, 255, 0, 3]) ∧
    after (.tunnelExit 1 0) (tunnelling (.queued 1)) = (tunnelling (.queued 1)).withReply 18 1 .busy [] ∧
    after (.tunnelExit 1 0) (tunnelling (.sent 1)) = (tunnelling (.sent 1)).withReply 18 1 .busy [] ∧
    after (.tunnelExit 1 0) readyA = readyA.withReply 18 1 .badState [] := by
  unfold State.entryFree; decide +kernel

theorem test_tunnelTraps :
    isTrapped (some classA) 6 [3, 1, 255] = false ∧ isTrapped (some classA) 6 [3, 2, 0] = true ∧
    isTrapped none 6 [3, 1, 255] = true ∧ isTrapped (some classA) 6 [4, 1, 255] = true ∧ isTrapped (some classA) 2 [] = false ∧
    isTrapped (some classA) 15 [] = true ∧ isTrapped (some classA) 16 [] = false := by
  decide +kernel

theorem test_tunnelPassRefused :
    (tunnelling .none).entryFree ∧ after (.tunnelPass 1 0 [2]) readyA = readyA.withReply 17 1 .badState [] ∧
    after (.tunnelPass 1 0 [2]) (tunnelling (.sent 9)) = (tunnelling (.sent 9)).withReply 17 1 .busy [] ∧
    after (.tunnelPass 1 0 []) (tunnelling .none) = (tunnelling .none).withReply 17 1 .badField [] ∧
    after (.tunnelPass 1 0 (List.replicate 513 2)) (tunnelling .none) = (tunnelling .none).withReply 17 1 .badField [] ∧
    after (.tunnelPass 1 0 [3]) (tunnelling .none) = (tunnelling .none).withReply 17 1 .trapped [] := by
  unfold State.entryFree; decide +kernel

theorem test_tunnelPassForwards :
    ((tunnelling .none).port 0).free ∧ isTrapped ((tunnelling .none).bayClass 0) 2 [] = false ∧
    ((after (.tunnelPass 9 0 [2]) (tunnelling .none)).port 0).tunnel = some { trap := 65535, fwd := 4, pass := .sent 9 } ∧
    SentNow 0 { what := .forwarded 2, owner := .work, body := [] } (tunnelling .none)
      (after (.tunnelPass 9 0 [2]) (tunnelling .none)) ∧
    isTrapped ((tunnelling .none).bayClass 0) 16 (List.replicate 511 0) = false ∧
    (after (.tunnelPass 9 0 (16 :: List.replicate 511 0)) (tunnelling .none)).link.setAside = 1 := by
  unfold Port.free SentNow; decide +kernel

/-- Bay 0 STOPPED or FAULTED with its job. -/
def stoppedWith (v : Verdict) : State := (running { jobA .keys with verdict := some v }).setBay 0
  { (running { jobA .keys with verdict := some v }).bay 0 with state := .stopped }

def faultedIn (o : BayState) (causes : List FaultCause) (s : State) : State :=
  s.setBay 0 { s.bay 0 with state := .faulted, origin := some o, faults := causes }

theorem test_releaseStopped :
    (stoppedWith .aborted).entryFree ∧ ((stoppedWith .aborted).port 0).linkAlive = true ∧
    ((after (.bayRelease 1 0) (stoppedWith .aborted)).bay 0) =
      { BayRec.reset with state := .ready, identity := some identityA } ∧
    after (.bayRelease 1 0) (stoppedWith .pass) = (stoppedWith .pass).withReply 11 1 .badState [] ∧
    (∀ s, s = (stoppedWith .aborted).setPort 0 Port.reset → after (.bayRelease 1 0) s = s.withReply 11 1 .badState []) ∧
    after (.bayRelease 1 0) readyA = readyA.withReply 11 1 .badState [] := by
  unfold State.entryFree
  refine ⟨by decide, by decide +kernel, by decide +kernel, by decide +kernel, ?_, by decide +kernel⟩
  rintro _ rfl; decide +kernel

theorem test_releaseFaulted :
    (∀ s, s = faultedIn .tunnel [.setRefused] (tunnelling (.sent 5)) →
      after (.bayRelease 1 0) s = s.withReply 11 1 .busy []) ∧
    (∀ s, s = faultedIn .running [.driveOvertime, .setRefused] (running (jobA .measure)) →
      s.entryFree ∧ ((after (.bayRelease 1 0) s).bay 0).state = .ready ∧
      (after (.bayRelease 1 0) s).link.placed = s.link.placed ++
        [.reply 11 1 .ok [], .notice false (.jobDone 0 .aborted (text [83, 49]) .measure 0 9)]) ∧
    (∀ s, s = faultedIn .attaching [.setSilent] (State.reset.setBay 0 BayRec.reset) →
      (s.port 0).linkAlive = false ∧ ((after (.bayRelease 1 0) s).bay 0).state = .attaching ∧
      ((after (.bayRelease 1 0) s).bay 0).attachTimer = some (ms 30000)) := by
  unfold State.entryFree
  refine ⟨?_, ?_, ?_⟩ <;> rintro _ rfl <;> decide +kernel

/-! ## Jobs -/

/-- Bay 0 READY with other identity fields or another class. -/
def readyWith (i : Identity) (c : ClassFields) : State :=
  ({ readyA with table := { readyA.table with classes := readyA.table.classes.set 0 { content := some c, refs := 0 } } }).setBay 0
    { readyA.bay 0 with identity := some i }

theorem test_jobStartRefused :
    readyA.entryFree ∧ after (.jobStart 1 0 16 noArgs) readyA = readyA.withReply 8 1 .badField [] ∧
    after (.jobStart 1 1 15 noArgs) readyA = readyA.withReply 8 1 .badState [] ∧
    readyA.table.profile 1 = none ∧ after (.jobStart 1 0 1 noArgs) readyA = readyA.withReply 8 1 .unknownProfile [] ∧
    (fillArgs { noArgs with levels := some [63] }).inRange (maskZones (readyA.bayClass 0)) = false ∧
    after (.jobStart 1 0 0 { noArgs with levels := some [63] }) readyA = readyA.withReply 8 1 .badField [] ∧
    (fillArgs { noArgs with mask := some [12] }).inRange (maskZones (readyA.bayClass 0)) = false ∧
    (fillArgs { noArgs with mask := some [11] }).inRange (maskZones (readyA.bayClass 0)) = true := by
  unfold State.entryFree; and_intros <;> decide +kernel

theorem test_jobStartAccepted :
    readyA.table.profile 0 = some profileA ∧ (fillArgs noArgs).inRange (maskZones (readyA.bayClass 0)) = true ∧
    readyA.bayClass 0 = some classA ∧ pairAllowed classA.pairs profileA.frameRate profileA.drive = true ∧
    profileA.region ∈ identityA.caps ∧ (readyA.port 0).free ∧
    (∀ t, t = after (.jobStart 1 0 0 noArgs) readyA →
      (t.bay 0).state = .running ∧ (t.bay 0).job.map Job.params = some (fillArgs noArgs) ∧
      t.link.placed = readyA.link.placed ++ [.reply 8 1 .ok [], .notice false (.stage 0 .region 0)] ∧
      t.table = (readyA.table.refProfile 0 (· + 1)).refClass 1 (· + 1) ∧ SentNow 0 (regionReq profileA) readyA t) := by
  unfold Port.free SentNow; and_intros <;> first | decide +kernel | (rintro _ rfl; decide +kernel)

/-- The three REGION checks each reject: no class, a pair not allowed, a region the set cannot take. -/
theorem test_jobStartRejected :
    (∀ s, s = readyWith { identityA with classId := 9 } classA → s.bayClass 0 = none ∧
      (after (.jobStart 1 0 0 noArgs) s).link.placed.getLast? =
        some (.notice false (.jobDone 0 .rejectRegion (text [83, 49]) .region 0 1))) ∧
    (∀ s, s = readyWith identityA { classA with pairs := 0x0FFE } → pairAllowed 0x0FFE 50 0 = false ∧
      (after (.jobStart 1 0 0 noArgs) s).link.placed.getLast? =
        some (.notice false (.jobDone 0 .rejectRegion (text [83, 49]) .region 0 2))) ∧
    (∀ s, s = readyWith { identityA with caps := [regionB] } classA →
      (after (.jobStart 1 0 0 noArgs) s).link.placed.getLast? =
        some (.notice false (.jobDone 0 .rejectRegion (text [83, 49]) .region 0 3)) ∧
      ((after (.jobStart 1 0 0 noArgs) s).bay 0).state = .stopped ∧ (after (.jobStart 1 0 0 noArgs) s).table = s.table) := by
  refine ⟨?_, ?_, ?_⟩ <;> rintro _ rfl <;> decide +kernel

theorem test_jobAbort :
    (running (jobA .solve)).entryFree ∧ ((after (.jobAbort 1 0) (running (jobA .solve))).bay 0).state = .stopped ∧
    ((after (.jobAbort 1 0) (running (jobA .solve))).bay 0).job = some { jobA .solve with verdict := some .aborted } ∧
    (after (.jobAbort 1 0) (running (jobA .solve))).link.placed = State.reset.link.placed ++
      [.reply 9 1 .ok [], .notice false (.jobDone 0 .aborted (text [83, 49]) .solve 0 0)] ∧
    after (.jobAbort 1 0) readyA = readyA.withReply 9 1 .badState [] := by
  unfold State.entryFree; decide +kernel

theorem test_resume :
    (∀ s, s = faultedIn .ready [.setSilent] readyA → s.entryFree ∧ after (.bayResume 1 0) s = s.withReply 10 1 .badState []) ∧
    after (.bayResume 1 0) readyA = readyA.withReply 10 1 .badState [] ∧
    (∀ s, s = faultedIn .ready [.setRefused, .probeSilent, .captureQuality, .driveOvertime] readyA →
      ((after (.bayResume 1 0) s).bay 0) = readyA.bay 0) ∧
    (∀ s, s = faultedIn .attaching [.setRefused] (readyA.setBay 0 BayRec.reset) →
      (s.port 0).free ∧ (s.port 0).openSection = none ∧ ((after (.bayResume 1 0) s).bay 0).state = .attaching ∧
      ((after (.bayResume 1 0) s).poller 0).helloAnswered = true ∧
      SentNow 0 (bareReq .identify .work) s (after (.bayResume 1 0) s)) ∧
    (∀ s, s = faultedIn .running [.probeDrift, .captureExposure] (running (jobA .region)) →
      ((after (.bayResume 1 0) s).bay 0).state = .running ∧ SentNow 0 (regionReq profileA) s (after (.bayResume 1 0) s) ∧
      (after (.bayResume 1 0) s).link.placed = s.link.placed ++ [.reply 10 1 .ok [], .notice false (.stage 0 .region 0)]) := by
  unfold State.entryFree SentNow Port.free
  refine ⟨?_, by decide +kernel, ?_, ?_, ?_⟩ <;> rintro _ rfl <;> decide +kernel

/-! ## Station and stores -/

def keyRec (id : Nat) (st : KeyState) : KeyRec :=
  { keyId := id, cls := 1, regions := [], batch := id % 2, blobLen := 16, check := keyA.check, loadSeq := id, state := st,
    blob := if st.live then some keyA.blob else none }

/-- A stock with one key in each state. -/
def stockA : Stock :=
  { records := [keyRec 1 .available, keyRec 2 (.reserved 0), keyRec 3 (.sending 0), keyRec 4 (.bound []),
      keyRec 5 (.voided none .preSendCheck)], nextSeq := 6, waiting := [] }

/-- Bay 0 RUNNING, bay 1 PARKED, a pass sent at bay 2 with its entry set aside. -/
def busyA : State :=
  ((((running (jobA .keys)).setStock stockA).setBay 1 { BayRec.reset with state := .parked }).setPort 2
    { portA with tunnel := some { trap := 0, fwd := 1, pass := .sent 77 } }).setLink
    { State.reset.link with setAside := 1 }

theorem test_resetBays :
    busyA.entryFree ∧ busyA.passReplies = [.reply 17 77 .badState []] ∧ busyA.passReplies.length ≤ busyA.link.setAside ∧
    (∀ t, t = after (.resetBays 1) busyA → (t.bay 0).state = .empty ∧ (t.bay 1).state = .parked ∧
      t.link.placed = busyA.link.placed ++ [.reply 17 77 .badState [], .reply 4 1 .ok []] ∧ t.link.setAside = 0 ∧
      t.stock.records.map KeyRec.state =
        [.available, .available, .voided (some (text [83, 49])) .cleanup, .bound [], .voided none .preSendCheck] ∧
      t.port 0 = Port.reset ∧ (t.probe 0).warm = .warm) := by
  unfold State.entryFree; and_intros <;> first | decide +kernel | (rintro _ rfl; decide +kernel)

/-- Bay 0 with every row filled and a solved frame of three sections over 4 by 3 zones. -/
def cellsA : List Cell := List.replicate 12 { gain := 614, masked := false }

def summaryA : Summary := { kind := .first, target := 100, belowFloor := 0, beyondRange := 0, predicted := none }

def frameA (st : FrameState) : MapFrame :=
  { state := st, cols := 4, rows := 3,
    sections := List.replicate 3 { cells := cellsA, summary := summaryA, outcome := .notSent } }

def rowA : Row := { cols := 4, rows := 3, readings := List.replicate 12 { lum := 100, flag := .valid }, uniformity := none }

def measured (st : FrameState) (s : State) : State := s.setArea 0 { rows := Vector.replicate 15 (some rowA), frame := some (frameA st) }

theorem test_sheetRead :
    readyA.entryFree ∧ after (.sheetRead 1 0 15 0 1) readyA = readyA.withReply 20 1 .badField [] ∧
    after (.sheetRead 1 0 0 0 0) readyA = readyA.withReply 20 1 .badField [] ∧
    after (.sheetRead 1 0 0 0 241) readyA = readyA.withReply 20 1 .badField [] ∧
    after (.sheetRead 1 0 14 0 240) readyA = readyA.withReply 20 1 .notFound [] ∧
    (∀ s, s = measured .solved readyA → after (.sheetRead 1 0 14 12 1) s = s.withReply 20 1 .badField [] ∧
      after (.sheetRead 1 0 14 11 240) s = s.withReply 20 1 .ok
        [0, 14, 4, 3, 0, 11, 0, 1, 0, 12, 0, 0, 0, 0, 0, 0, 255, 255, 0, 100, 0]) := by
  unfold State.entryFree; and_intros <;> first | decide +kernel | (rintro _ rfl; decide +kernel)

theorem test_mapRead :
    after (.mapRead 1 0 12 0 1) readyA = readyA.withReply 21 1 .badField [] ∧
    after (.mapRead 1 0 0 0 0) readyA = readyA.withReply 21 1 .badField [] ∧
    after (.mapRead 1 0 0 0 241) readyA = readyA.withReply 21 1 .badField [] ∧
    after (.mapRead 1 0 11 0 240) readyA = readyA.withReply 21 1 .notFound [] ∧
    (∀ s, s = measured .solved readyA → after (.mapRead 1 0 3 0 1) s = s.withReply 21 1 .notFound [] ∧
      after (.mapRead 1 0 2 12 1) s = s.withReply 21 1 .badField [] ∧
      after (.mapRead 1 0 2 11 240) s = s.withReply 21 1 .ok
        [0, 2, 1, 0, 0, 0, 0, 100, 0, 0, 0, 0, 255, 255, 0, 0, 0, 0, 1, 2, 102]) := by
  and_intros <;> first | decide +kernel | (rintro _ rfl; decide +kernel)

theorem test_stockQueries :
    ∀ s, s = readyA.setStock stockA → s.entryFree ∧ after (.stockQueryRun 1 0 0) s = s.withReply 27 1 .badField [] ∧
      after (.stockQueryRun 1 0 25) s = s.withReply 27 1 .badField [] ∧
      after (.stockQueryRecord 1 0) s = s.withReply 27 1 .badField [] ∧
      after (.stockQueryRecord 1 6) s = s.withReply 27 1 .notFound [] ∧
      after (.stockQueryRecord 1 5) s = s.withReply 27 1 .ok (recordBody (keyRec 5 (.voided none .preSendCheck))) ∧
      ((after (.stockQueryRun 1 5 24) s).link.placed.getLast?.map fun m => match m with
        | .reply _ _ _ body => body.drop (body.length - 4)
        | .notice _ _ => []) = some [0, 0, 0, 6] ∧ (after (.stockQueryCounts 1) s).stock = s.stock := by
  rintro _ rfl; unfold State.entryFree; decide +kernel

theorem test_keyLoadRefused :
    after (.keyLoad 1 { keyA with keyId := 0 }) readyA = readyA.withReply 24 1 .badField [] ∧
    after (.keyLoad 1 { keyA with cls := 9 }) readyA = readyA.withReply 24 1 .badField [] ∧
    after (.keyLoad 1 { keyA with regions := [regionA, regionA] }) readyA = readyA.withReply 24 1 .badField [] ∧
    after (.keyLoad 1 { keyA with check := 0 }) readyA = readyA.withReply 24 1 .integrity [] ∧
    (∀ s, s = readyA.setStock stockA → after (.keyLoad 1 { keyA with keyId := 5 }) s = s.withReply 24 1 .duplicate []) ∧
    (∀ s, s = readyA.setStock { stockA with records := List.replicate 2048 (keyRec 1 (.bound [])) } →
      after (.keyLoad 1 keyA) s = s.withReply 24 1 .stockFull []) := by
  and_intros <;> first | decide +kernel | (rintro _ rfl; decide +kernel)

/-- A RUNNING bay in KEYS that waits for a key. -/
def waitingForKey : State :=
  (running (jobA .keys)).setStock { stockA with waiting := [{ bay := 0, cls := 1, region := regionA, joined := 0 }] }

theorem test_keyLoadAccepted :
    readyA.entryFree ∧ crc32 keyA.blob = keyA.check ∧
    (after (.keyLoad 1 keyA) readyA).stock.records = [newRecord keyA 1] ∧ (after (.keyLoad 1 keyA) readyA).stock.nextSeq = 2 ∧
    fits 1 regionA (newRecord keyA 6) = true ∧
    ((after (.keyLoad 1 keyA) waitingForKey).stock.find 7).map KeyRec.state = some (.sending 0) ∧
    (after (.keyLoad 1 keyA) waitingForKey).stock.waiting = [] ∧
    ((after (.keyLoad 1 keyA) waitingForKey).bay 0).job.map Job.keyId = some (some 7) ∧
    (after (.keyLoad 1 keyA) waitingForKey).link.placed.getLast? = some (.reply 24 1 .ok [0, 0, 0, 6]) := by
  unfold State.entryFree; decide +kernel

theorem test_withdraw :
    ∀ s, s = readyA.setStock stockA → s.entryFree ∧ after (.keyWithdrawById 1 0) s = s.withReply 25 1 .badField [] ∧
      after (.keyWithdrawById 1 6) s = s.withReply 25 1 .notFound [] ∧
      after (.keyWithdrawById 1 1) s =
        (s.setStock { stockA with records := stockA.records.drop 1 }).withReply 25 1 .ok [0, 1, 0, 0, 0, 0] ∧
      after (.keyWithdrawByBatch 1 1) s =
        (s.setStock { stockA with records := stockA.records.drop 1 }).withReply 25 1 .ok [0, 1, 0, 1, 0, 1] := by
  rintro _ rfl; unfold State.entryFree; decide +kernel

theorem test_purge :
    ∀ s, s = readyA.setStock stockA → s.entryFree ∧
      after (.keyPurgeAll 1) s = (s.setStock { stockA with records := stockA.records.take 3 }).withReply 26 1 .ok [0, 2, 0, 3] ∧
      (after (.keyPurgeBatch 1 1) s).stock.records = stockA.records.take 4 := by
  rintro _ rfl; unfold State.entryFree; decide +kernel

/-- The slots of `readyA` with a reference held. -/
def heldSlots : State :=
  { readyA with table := (readyA.table.refProfile 0 (· + 1)).refClass 1 (· + 1) }

theorem test_profileRequests :
    readyA.entryFree ∧ profileInRange profileA = true ∧ profileInRange { profileA with powerCap := 601 } = false ∧
    after (.profileLoad 1 16 profileA) readyA = readyA.withReply 28 1 .badField [] ∧
    after (.profileLoad 1 0 { profileA with powerCap := 601 }) readyA = readyA.withReply 28 1 .badField [] ∧
    after (.profileLoad 1 0 profileA) heldSlots = heldSlots.withReply 28 1 .inUse [] ∧
    (after (.profileLoad 1 15 profileA) readyA).link.placed.getLast? = some (.reply 28 1 .ok [15, 0]) ∧
    (after (.profileLoad 1 0 profileA) readyA).link.placed.getLast? = some (.reply 28 1 .ok [0, 1]) ∧
    after (.profileDrop 1 16) readyA = readyA.withReply 29 1 .badField [] ∧
    after (.profileDrop 1 15) readyA = readyA.withReply 29 1 .notFound [] ∧
    after (.profileDrop 1 0) heldSlots = heldSlots.withReply 29 1 .inUse [] ∧
    (after (.profileDrop 1 0) readyA).table.profile 0 = none := by
  unfold State.entryFree; and_intros <;> decide +kernel

theorem test_classRequests :
    classInRange classA = true ∧ classInRange { classA with cols := 3 } = false ∧
    after (.classLoad 1 0 classA) readyA = readyA.withReply 30 1 .badField [] ∧
    after (.classLoad 1 9 classA) readyA = readyA.withReply 30 1 .badField [] ∧
    after (.classLoad 1 1 { classA with cols := 3 }) readyA = readyA.withReply 30 1 .badField [] ∧
    after (.classLoad 1 1 classA) heldSlots = heldSlots.withReply 30 1 .inUse [] ∧
    (after (.classLoad 1 8 classA) readyA).link.placed.getLast? = some (.reply 30 1 .ok [8, 0]) ∧
    (after (.classLoad 1 1 classA) readyA).link.placed.getLast? = some (.reply 30 1 .ok [1, 1]) ∧
    after (.classDrop 1 0) readyA = readyA.withReply 31 1 .badField [] ∧
    after (.classDrop 1 9) readyA = readyA.withReply 31 1 .badField [] ∧
    after (.classDrop 1 8) readyA = readyA.withReply 31 1 .notFound [] ∧
    after (.classDrop 1 1) heldSlots = heldSlots.withReply 31 1 .inUse [] ∧
    (after (.classDrop 1 1) readyA).table.panelClass 1 = none := by
  and_intros <;> decide +kernel

/-! ## Polls and timers -/

/-- Bay 1 EMPTY at a poll level it has been at for a time in ms, its poll due at `readyA`'s instant. -/
def emptyAt (l : PollLevel) (time : Nat) : State :=
  readyA.setPoller 1 { Poller.reset with level := l, emptyTime := .running (ms time) readyA.now, next := some readyA.now }

theorem test_notDue : (readyA.poller 1).next = some 0 ∧
    (∀ s, s = readyA.setPoller 1 { Poller.reset with next := some (readyA.now + 1) } → after (.poll 1 true) s = s) ∧
    after (.attachTimerExpiry 1) readyA = readyA ∧ after (.settleTimerExpiry 1) readyA = readyA ∧
    after (.setRequestTimeout 1) readyA = readyA ∧ keepFallsDue readyA 0 = false ∧ after (.keepDue 0) readyA = readyA ∧
    lapseReached readyA 0 = false ∧ after (.lapse 0) readyA = readyA ∧ after .headTimerExpiry readyA = readyA ∧
    after (.overtimeExpiry 0) readyA = readyA ∧ after .grantHistoryExpiry readyA = readyA ∧
    (readyA.probe 1).warm = .warming (ms 5000) ∧ after (.warmUpExpiry 1) readyA = readyA ∧
    after (.probeRequestTimeout 0) readyA = readyA ∧ after (.solveDone 0) readyA = readyA := by
  and_intros <;> first | decide +kernel | (intro _ h; rw [h]; decide +kernel)

theorem test_pollOpen :
    ((after (.poll 1 false) (emptyAt .watch 29999)).poller 1).level = .watch ∧
    ((after (.poll 1 false) (emptyAt .watch 29999)).poller 1).next = some (ms 200) ∧
    ((after (.poll 1 false) (emptyAt .watch 30000)).poller 1) =
      { Poller.reset with level := .doze1, emptyTime := .running 0 (ms 100), next := some (ms 600) } ∧
    ((after (.poll 1 false) (emptyAt .doze1 120000)).poller 1).level = .doze2 ∧
    ((after (.poll 1 false) (emptyAt .doze2 600000)).poller 1).next = some (ms 10100) ∧
    ((after (.poll 1 false) (emptyAt .doze3 600000)).poller 1).next = some (ms 10100) := by
  decide +kernel

theorem test_pollClosed :
    ((after (.poll 1 true) (emptyAt .doze3 5)).bay 1).state = .attaching ∧
    ((after (.poll 1 true) (emptyAt .doze3 5)).bay 1).attachTimer = some (ms 30100) ∧ (emptyAt .doze3 5).port 1 = Port.reset ∧
    SentNow 1 (bareReq .hello .work) (emptyAt .doze3 5) (after (.poll 1 true) (emptyAt .doze3 5)) ∧
    ((after (.poll 1 true) (emptyAt .doze3 5)).bay 1).requests = 1 := by
  unfold SentNow; decide +kernel

/-- Bay 0's poll is due. -/
def pollDue (s : State) : State := s.setPoller 0 { s.poller 0 with emptyTime := .paused 0, next := some s.now }

theorem test_pollOccupied :
    (∀ s, s = pollDue (inState .stopped) → after (.poll 0 true) s = s.setPoller 0 { s.poller 0 with next := some (ms 200) }) ∧
    (∀ s, s = pollDue (State.reset.setBay 0 { BayRec.reset with state := .attaching }) →
      (s.poller 0).helloOut = false ∧ (s.poller 0).helloAnswered = false ∧ (s.port 0).outstanding = none ∧
      SentNow 0 (bareReq .hello .work) s (after (.poll 0 true) s) ∧
      ((after (.poll 0 true) (after (.poll 0 true) s)).poller 0).helloOut = true ∧
      ((after (.poll 0 false) s).bay 0).state = .empty) := by
  unfold SentNow; refine ⟨?_, ?_⟩ <;> (intro _ h; rw [h]; decide +kernel)

theorem test_removal :
    ∀ s, s = pollDue ((measured .solved (tunnelling (.queued 8))).setLink { State.reset.link with setAside := 1 }) →
      ∀ t, t = after (.poll 0 false) s → (t.bay 0).state = .empty ∧ (t.bay 0).identity = none ∧ t.port 0 = Port.reset ∧
        t.area 0 = Area.reset ∧
        t.link.placed = s.link.placed ++ [.reply 17 8 .badState [], .notice false (.removed 0 (text [83, 49]) false)] := by
  intro _ h _ e; rw [e, h]; decide +kernel

/-- A fault taken from a from-state, its notice the next message. -/
def took (b : Bay) (cause : FaultCause) (detail : Nat) (s t : State) : Bool :=
  decide ((t.bay b).state = .faulted) && decide ((t.bay b).origin = some (s.bay b).state) &&
  decide ((t.bay b).faults = [cause]) && decide ((t.bay b).overflow = false) && decide ((t.bay b).attachTimer = none) &&
  decide ((t.bay b).settleTimer = none) && decide ((t.bay b).identity = (s.bay b).identity) &&
  decide ((t.bay b).job = (s.bay b).job) &&
  decide (s.link.placed ++ [.notice false (.fault b cause (s.bay b).state (s.bay b).stage? detail)] <+: t.link.placed)

theorem test_attachTimeout :
    ∀ s, s = State.reset.setBay 0 { BayRec.reset with state := .attaching, attachTimer := some 0 } →
      took 0 .attachTimeout 0 s (after (.attachTimerExpiry 0) s) = true ∧
      ((after (.attachTimerExpiry 0) s).bay 0).origin = some .attaching := by
  intro _ h; rw [h]; decide +kernel

/-- Bay 0 measures, 2 s after its set last answered. -/
def silent : State := { running (jobA .measure) with now := ms 2000 }

theorem test_lapse :
    (silent.port 0).lapseClock = .running 0 0 ∧ ms silent.link.params.serviceDeadline ≤ 0 + (silent.now - 0) ∧
    took 0 .serviceLapsed 0 silent (after (.lapse 0) silent) = true ∧
    ((after (.lapse 0) silent).bay 0).state = .faulted ∧ ((after (.lapse 0) silent).port 0).linkAlive = false ∧
    (after (.lapse 0) silent).link.placed.getLast? = some (.notice false (.fault 0 .serviceLapsed .running (some .measure) 0)) := by
  decide +kernel

theorem test_setTimeout :
    (∀ s, s = outstanding .show .work readyA.now (running (jobA .measure)) →
      took 0 .setSilent 0 s (after (.setRequestTimeout 0) s) = true ∧
      ((after (.setRequestTimeout 0) s).bay 0).faults = [.setSilent]) ∧
    (∀ s, s = outstanding .keep .work readyA.now (faultedIn .ready [.setRefused, .setRefused, .setRefused, .setRefused] readyA) →
      ((after (.setRequestTimeout 0) s).bay 0).overflow = true) ∧
    (∀ s, s = outstanding .hello .work 0 (State.reset.setBay 0 { BayRec.reset with state := .attaching }) →
      ((after (.setRequestTimeout 0) s).bay 0).state = .attaching ∧
      ((after (.setRequestTimeout 0) s).port 0) = Port.reset) := by
  and_intros <;> (intro _ h; rw [h]; decide +kernel)

/-- The capture engine at work for bay 0. -/
def entryA : Entry := { bay := 0, row := 0, samples := 1, cols := 4, rows := 3, number := 5 }

def capturing (c : Current) (p : Probe) : State :=
  (((running (jobA .measure)).setEngine { readyA.engine with queue := [c.entry], current := some c }).setProbe 0 p).setBay 0
    { (running (jobA .measure)).bay 0 with entry := some 5 }

def currentA (ph : CapturePhase) : Current := { phase := ph, entry := entryA, exposures := 1, accepted := [], discarded := 0 }

def probeReq (isRef : Bool) (step : Nat) : ProbeReq :=
  { isRef := isRef, seqNo := 1, step := step, cols := 4, rows := 3, deadline := ms 100 }

def probeA (isRef : Bool) : Probe := { Probe.reset with warm := .warm, outstanding := some (probeReq isRef 6) }

theorem test_probeTimeout :
    ∀ s, s = capturing (currentA .exposing) (probeA false) → (s.bay 0).entry = some 5 ∧
      took 0 .probeSilent 0 s (after (.probeRequestTimeout 0) s) = true ∧
      ((after (.probeRequestTimeout 0) s).bay 0).state = .faulted ∧
      ((after (.probeRequestTimeout 0) s).probe 0).fault = true ∧ (after (.probeRequestTimeout 0) s).engine.queue = [] ∧
      (after (.probeRequestTimeout 0) s).engine.current = none := by
  intro _ h; rw [h]; decide +kernel

/-! ## Set answers -/

theorem test_answersDiscarded :
    openFrame 90 1012 (frameBytes 90 [1]) = some [1] ∧
    after (.setAnswerReceived 0 (answer [3, 0])) readyA = readyA ∧
    (∀ s, s = outstanding .keep .work (ms 200) readyA → openFrame 90 1012 [] = none ∧
      after (.setAnswerReceived 0 []) s = s ∧ after (.setAnswerReceived 0 (answer [1, 0])) s = s) := by
  and_intros <;> first | decide +kernel | (intro _ h; rw [h]; decide +kernel)

set_option maxRecDepth 20000 in
theorem test_longestAnswer : openFrame 90 1012 (answer (List.replicate 1010 7)) = some (text (List.replicate 1010 7)) := by
  decide +kernel

theorem test_keepAnswered :
    ∀ s, s = outstanding .keep .work (ms 200) readyA → (s.port 0).freeNext ∧
      after (.setAnswerReceived 0 (answer [3, 0])) s =
        s.setPort 0 { s.port 0 with outstanding := none, keepClock := .running 0 (ms 100) } ∧
      took 0 .setRefused 1 s (after (.setAnswerReceived 0 (answer [3, 1])) s) = true ∧
      ((after (.setAnswerReceived 0 (answer [3, 1])) s).bay 0).firstKeep = true := by
  intro _ h; rw [h]; unfold Port.freeNext; decide +kernel

/-- Bay 0 ATTACHING with a request out. -/
def attaching (w : ReqWhat) (p : Port) : State :=
  outstanding w .work (ms 200)
    ((readyA.setBay 0 { BayRec.reset with state := .attaching, attachTimer := some (ms 30000) }).setPort 0 p)

theorem test_helloAnswered :
    (∀ t, t = after (.setAnswerReceived 0 (answer [1, 0])) (attaching .hello Port.reset) →
      (t.port 0).linkAlive = true ∧ (t.port 0).keepClock = .running 0 (ms 100) ∧
      SentNow 0 (bareReq .identify .work) (attaching .hello Port.reset) t) ∧
    (∀ t, t = after (.setAnswerReceived 0 (answer [1, 4])) (attaching .hello Port.reset) →
      (t.port 0).linkAlive = false ∧ (t.bay 0).state = .attaching ∧ (t.poller 0).helloOut = false) := by
  unfold SentNow; refine ⟨?_, ?_⟩ <;> (intro _ h; rw [h]; decide +kernel)

theorem test_identifyAnswered :
    parseIdentity (text [2, 83, 49, 1, 1, 65, 65, 65]) = some identityA ∧ parseIdentity [] = none ∧
    parseIdentity (text (25 :: List.replicate 25 65 ++ [1, 1, 65, 65, 65])) = none ∧
    (∀ t, t = after (.setAnswerReceived 0 (answer [2, 0, 2, 83, 49, 1, 1, 65, 65, 65])) (attaching .identify portA) →
      (t.bay 0).state = .ready ∧ (t.bay 0).identity = some identityA ∧ (t.bay 0).attachTimer = none ∧
      Noticed (.identified 0 identityA) (attaching .identify portA) t) ∧
    (∀ t, t = after (.setAnswerReceived 0 (answer [2, 0])) (attaching .identify portA) →
      took 0 .setRefused 0 (attaching .identify portA) t = true ∧ (t.bay 0).state = .faulted) ∧
    (∀ t, t = after (.setAnswerReceived 0 (answer [2, 255])) (attaching .identify portA) →
      took 0 .setRefused 255 (attaching .identify portA) t = true ∧ (t.bay 0).state = .faulted) := by
  unfold Noticed; and_intros <;> first | decide +kernel | (intro _ h; rw [h]; decide +kernel)

/-- Bay 0 RUNNING a job with a request of its work out. -/
def working (j : Job) (w : ReqWhat) : State := outstanding w .work (ms 200) (running j)

theorem test_showAnswered :
    (working (jobA .measure) .show).worksOn 0 .measure (jobA .measure) ∧
    (working (jobA .verify) .show).worksOn 0 .verify (jobA .verify) ∧
    ((after (.setAnswerReceived 0 (answer [6, 0])) (working (jobA .measure) .show)).bay 0).settleTimer = some (ms 120) ∧
    ((after (.setAnswerReceived 0 (answer [6, 0])) (working (jobA .verify) .show)).bay 0).settleTimer = some (ms 120) := by
  unfold State.worksOn; decide +kernel

theorem test_darkAnswered :
    (∀ t, t = after (.setAnswerReceived 0 (answer [7, 0])) (working (jobA .measure) .dark) →
      (t.bay 0).job = some { jobA .measure with cursor := 1 }) ∧
    (∀ j, j = { jobA .measure with cursor := 2 } → j.cursor + 1 = 3 * j.params.levels.length ∧
      ∀ t, t = after (.setAnswerReceived 0 (answer [7, 0])) (working j .dark) →
        (t.bay 0).job = some { jobA .solve with cursor := 3 } ∧ t.solve 0 = some .first ∧
        Noticed (.stage 0 .solve 0) (working j .dark) t) := by
  unfold Noticed
  refine ⟨by intro _ h; rw [h]; decide +kernel, ?_⟩
  intro _ h; rw [h]
  exact ⟨by decide, by intro _ h; rw [h]; decide +kernel⟩

theorem test_setRegionAnswered :
    (∀ t, t = after (.setAnswerReceived 0 (answer [8, 0])) (working (jobA .region) .setRegion) →
      (t.bay 0).job = some (jobA .measure) ∧ Noticed (.stage 0 .measure 0) (working (jobA .region) .setRegion) t ∧
      SentNow 0 (showReq .red 64) (working (jobA .region) .setRegion) t) ∧
    (∀ t, t = after (.setAnswerReceived 0 (answer [8, 1])) (working (jobA .region) .setRegion) →
      JobEnded 0 (jobA .region) .rejectRegion (working (jobA .region) .setRegion) t ∧
      Noticed (.jobDone 0 .rejectRegion (text [83, 49]) .region 0 1) (working (jobA .region) .setRegion) t) := by
  unfold Noticed JobEnded RefsDropped SentNow; refine ⟨?_, ?_⟩ <;> (intro _ h; rw [h]; decide +kernel)

theorem test_finishAnswered :
    (∀ t, t = after (.setAnswerReceived 0 (answer [15, 0])) (working (jobA .finish) .finish) →
      JobEnded 0 (jobA .finish) .pass (working (jobA .finish) .finish) t ∧ (t.port 0).linkAlive = false ∧
      Noticed (.jobDone 0 .pass (text [83, 49]) .finish 0 0) (working (jobA .finish) .finish) t) ∧
    (∀ t, t = after (.setAnswerReceived 0 (answer [15, 2])) (working (jobA .finish) .finish) →
      JobEnded 0 (jobA .finish) .rejectSet (working (jobA .finish) .finish) t ∧
      Noticed (.jobDone 0 .rejectSet (text [83, 49]) .finish 0 2) (working (jobA .finish) .finish) t) := by
  unfold Noticed JobEnded RefsDropped; refine ⟨?_, ?_⟩ <;> (intro _ h; rw [h]; decide +kernel)

/-- A forwarded DARK answered OK leaves the bay's record as it was, a showing flag that stands included (log entry 48). -/
theorem test_forwardedDarkAnswered :
    ∀ s, s = outstanding (.forwarded 7) .work (ms 200) ((tunnelling (.sent 5)).setBay 0
        { (inState .tunnel).bay 0 with showing := true }) →
      (s.port 0).freeNext ∧ ∀ t, t = after (.setAnswerReceived 0 (answer [7, 0])) s →
        t.bay 0 = s.bay 0 ∧ (t.bay 0).showing = true ∧ (t.port 0).keepClock = (s.port 0).keepClock ∧ (t.port 0).outstanding = none := by
  intro _ h; rw [h]; unfold Port.freeNext; exact ⟨by decide +kernel, by intro _ h; rw [h]; decide +kernel⟩

theorem test_passAnswered :
    ∀ s, s = outstanding (.forwarded 2) .work (ms 200) ((tunnelling (.sent 5)).setLink { State.reset.link with setAside := 1 }) →
      (s.port 0).freeNext ∧ ∀ t, t = after (.setAnswerReceived 0 (answer [2, 9, 9])) s →
        t.link.placed = s.link.placed ++ [.reply 17 5 .ok [0, 2, 9, 9]] ∧ t.link.setAside = 0 ∧
        (t.port 0).tunnel = some { trap := 65535, fwd := 3, pass := .none } := by
  intro _ h; rw [h]; unfold Port.freeNext; exact ⟨by decide +kernel, by intro _ h; rw [h]; decide +kernel⟩

/-- A transfer at a section cursor, with rewrites already done and a request out. -/
def transferring (sec rewrites : Nat) (st : FrameState) (w : ReqWhat) : State :=
  outstanding w .work (ms 200) ((measured st (running (jobA .transfer))).setSeq 0
    { phase := .bursting, sec := sec, burst := 0, rewrites := Vector.replicate 12 rewrites, confirmed := Vector.replicate 12 0 })

theorem test_openSectionAnswered :
    ∀ s, s = transferring 0 0 .writing (.openSection 0) → openFrame 90 1012 (answer [11, 0]) = some [11, 0] ∧
      ∀ t, t = after (.setAnswerReceived 0 (answer [11, 0])) s → (t.seq 0).phase = .bursting ∧ (t.seq 0).burst = 0 ∧
        SentNow 0 (burstReq 0 0 cellsA) s t := by
  intro _ h; rw [h]; unfold SentNow; exact ⟨by decide +kernel, by intro _ h; rw [h]; decide +kernel⟩

theorem test_lastBurstAnswered :
    expectedCheck cellsA = 0xA1B0 ∧
    (∀ t, t = after (.setAnswerReceived 0 (answer [12, 0, 0xA1, 0xB0])) (transferring 0 0 .writing (.burst 0 0 true)) →
      (t.seq 0).sec = 1 ∧ (t.bay 0).state = .running ∧
      (t.area 0).frame.map MapFrame.sections = some ((frameA .writing).sections.set 0
        { cells := cellsA, summary := summaryA, outcome := .written })) ∧
    (∀ t, t = after (.setAnswerReceived 0 (answer [12, 0, 0, 0])) (transferring 2 0 .writing (.burst 2 0 true)) →
      (t.seq 0).sec = 2 ∧ get12 (t.seq 0).rewrites 2 = 1) ∧
    (∀ t, t = after (.setAnswerReceived 0 (answer [12, 0, 0, 0])) (transferring 2 1 .writing (.burst 2 0 true)) →
      JobEnded 0 (jobA .transfer) .rejectSet (transferring 2 1 .writing (.burst 2 0 true)) t ∧
      Noticed (.jobDone 0 .rejectSet (text [83, 49]) .transfer 0 2) (transferring 2 1 .writing (.burst 2 0 true)) t) := by
  unfold JobEnded RefsDropped Noticed; and_intros <;> first | decide +kernel | (intro _ h; rw [h]; decide +kernel)

theorem test_applyMapAnswered :
    ∀ s, s = transferring 3 0 .writing .applyMap → ∀ t, t = after (.setAnswerReceived 0 (answer [14, 0])) s →
      (t.area 0).frame = some (frameA .written) ∧ (t.area 0).rows.get 14 = none ∧ (t.area 0).rows.get 11 = some rowA ∧
      (t.bay 0).job = some (jobA .verify) ∧ Noticed (.stage 0 .verify 0) s t := by
  intro _ h _ e; rw [e, h]; unfold Noticed; decide +kernel

/-- KEYS with key 3 SENDING and KEY END out; the attempts are those made for this class. -/
def ending (attempts : Nat) : State :=
  outstanding .keyEnd .work (ms 200) (((running { jobA .keys with keyId := some 3, attempts := attempts }).setStock stockA).setXfer 0
    { phase := .ending, keyId := some 3, chunks := 1, cursor := 1 })

theorem test_storedAnswered :
    keyA.check = 0xECBB4B55 ∧ (ending 0).stock.find 3 = some (keyRec 3 (.sending 0)) ∧
    (∀ t, t = after (.setAnswerReceived 0 (answer [10, 0, 0xEC, 0xBB, 0x4B, 0x55])) (ending 0) →
      (t.stock.find 3).map KeyRec.state = some (.bound (text [83, 49])) ∧ (t.stock.find 3).map KeyRec.blob = some none ∧
      (t.bay 0).job.map Job.keyCursor = some 1 ∧ (t.bay 0).job.map Job.attempts = some 0 ∧
      Noticed (.keyBound 3 1 1 0 (text [83, 49])) (ending 0) t) ∧
    (∀ t, t = after (.setAnswerReceived 0 (answer [10, 0, 0, 0, 0, 0])) (ending 0) →
      (t.stock.find 3).map KeyRec.state = some (.voided (some (text [83, 49])) .storedMismatch) ∧
      (t.bay 0).job.map Job.attempts = some 1) ∧
    (∀ t, t = after (.setAnswerReceived 0 (answer [10, 0, 0, 0, 0, 0])) (ending 1) →
      JobEnded 0 { jobA .keys with attempts := 1 } .rejectKey (ending 1) t) := by
  unfold JobEnded RefsDropped Noticed; and_intros <;> first | decide +kernel | (intro _ h; rw [h]; decide +kernel)

/-! ## Keep-alive, settle timer, governor -/

theorem test_keepDue :
    (∀ s, s = { readyA with now := ms 800 } → (s.port 0).keepClock = .running 0 0 ∧ ms s.link.params.keepInterval ≤ s.now ∧
      SentNow 0 (bareReq .keep .work) s (after (.keepDue 0) s) ∧
      ((after (.keepDue 0) s).port 0).lapseClock = .running 0 (ms 800)) ∧
    (∀ s, s = outstanding .dark .work (ms 900) { readyA with now := ms 800 } →
      after (.keepDue 0) s = s.setPort 0 { s.port 0 with keepDue := true, keepTaken := some (ms 800) }) ∧
    (∀ s, s = { readyA with now := ms 800 }.setPort 0 { portA with openSection := some 0 } →
      after (.keepDue 0) s = s.setPort 0 { s.port 0 with keepDue := true, keepTaken := some (ms 800) }) := by
  unfold SentNow; and_intros <;> (intro _ h; rw [h]; decide +kernel)

/-- Bay 0 settles on its patch; its probe has been warmed or not. -/
def settling (j : Job) (w : WarmUp) (count last : Nat) : State :=
  (((running j).setBay 0 { (running j).bay 0 with settleTimer := some (ms 100) }).setEngine
    { readyA.engine with lastNumber := last }).setProbe 0 { Probe.reset with warm := w, count := count, seeded := true }

theorem test_settleTimer :
    (settling (jobA .measure) .warm 47 65535).worksOn 0 .measure (jobA .measure) ∧
    (∀ t, t = after (.settleTimerExpiry 0) (settling (jobA .measure) .warm 47 65535) →
      t.engine.current = some { currentA .exposing with entry := { entryA with number := 1 } } ∧
      t.engine.queue = [{ entryA with number := 1 }] ∧ (t.bay 0).entry = some 1 ∧ (t.bay 0).settleTimer = none) ∧
    (∀ t, t = after (.settleTimerExpiry 0) (settling (jobA .verify) .warm 48 4) →
      t.engine.current = some { currentA .referencing with entry := { entryA with row := 12 }, exposures := 0 }) ∧
    (∀ t, t = after (.settleTimerExpiry 0) (settling (jobA .measure) (.warming (ms 101)) 0 4) →
      t.engine.current = none ∧ t.engine.queue = [entryA]) := by
  unfold State.worksOn
  refine ⟨by decide +kernel, ?_, ?_, ?_⟩ <;> (intro _ h; rw [h]; decide +kernel)

/-- A job whose one level is high drive, waiting for its admission since 100 ms. -/
def highJob : Job := { jobA .measure with params := { paramsA with levels := [512] } }

def queued (history : List Grant) : State :=
  (running highJob).setGov { Governor.reset with
    queue := [{ bay := 0, joined := ms 100 }], headTimer := some (ms 100), history := history,
    lastA := history.head?.map Grant.time }

theorem test_headGranted :
    (queued []).gov.headTimer = some (queued []).now ∧ earliestGrant (queued []).gov (queued []).link.params 0 (ms 100) = ms 100 ∧
    ((queued []).port 0).free ∧
    (∀ u, u = after .headTimerExpiry (queued []) → u.gov.history = [{ time := ms 100, bay := 0 }] ∧ u.gov.queue = [] ∧
      u.gov.held = [{ bay := 0, granted := ms 100, expires := ms 4100 }] ∧ u.gov.lastA = some (ms 100) ∧ u.gov.lastB = none ∧
      SentNow 0 (showReq .red 512) (queued []) u) ∧
    (after .headTimerExpiry (queued [{ time := ms 50, bay := 1 }])).gov.headTimer = some (ms 450) := by
  unfold Port.free SentNow
  refine ⟨by decide +kernel, by decide +kernel, by decide +kernel, ?_, by decide +kernel⟩
  intro _ h; rw [h]; decide +kernel

/-- Bay 0 holds an admission to its limit, with a patch's overtime count. -/
def overtimeAt (n : Nat) (waiting : List Waiting) : State :=
  (running { highJob with overtime := n }).setGov { Governor.reset with
    held := [{ bay := 0, granted := 0, expires := ms 100 }], queue := waiting,
    headTimer := waiting.head?.map (fun _ => ms 200), lastA := some 0, history := [{ time := 0, bay := 0 }] }

theorem test_overtime :
    (∀ t, t = after (.overtimeExpiry 0) (overtimeAt 1 [{ bay := 2, joined := 0 }]) →
      (t.bay 0).overtimes = 1 ∧ (t.bay 0).job = some { highJob with overtime := 2 } ∧ (t.bay 0).state = .running ∧
      t.gov.queue = [{ bay := 2, joined := 0 }, { bay := 0, joined := ms 100 }] ∧ t.gov.held = []) ∧
    (∀ t, t = after (.overtimeExpiry 0) (overtimeAt 2 []) →
      ((overtimeAt 2 []).port 0).Settled ∧ took 0 .driveOvertime 0 (overtimeAt 2 []) t = true ∧ t.gov.held = []) := by
  unfold Port.Settled; and_intros <;> (intro _ h; rw [h]; decide +kernel)

theorem test_historyTrimmed :
    ∀ s, s = { (queued [{ time := ms 10, bay := 0 }, { time := 0, bay := 1 }]) with now := ms 10000 } →
      (after .grantHistoryExpiry s).gov.history = [{ time := ms 10, bay := 0 }] := by
  intro _ h; rw [h]; decide +kernel

/-! ## Engine and solver -/

theorem test_warmUp :
    (∀ s, s = settling (jobA .measure) (.warming (ms 100)) 0 4 →
      (after (.warmUpExpiry 0) s).probe 0 = { s.probe 0 with warm := .warm }) ∧
    (∀ s, s = State.setEngine (settling (jobA .measure) (.warming (ms 100)) 0 4)
        { (settling (jobA .measure) (.warming (ms 100)) 0 4).engine with queue := [entryA] } →
      (after (.warmUpExpiry 0) s).engine.current.map Current.entry = some entryA) := by
  and_intros <;> (intro _ h; rw [h]; decide +kernel)

/-- A probe's FRAME, every zone RESOLVED at 100, and its REFERENCE. -/
def frameOf (step sat peak valid : Nat) : List Byte :=
  frameBytes probeStart (text ([129, 1, step] ++ [peak / 256, peak % 256] ++ [sat / 256, sat % 256] ++ [0, valid]) ++
    (List.replicate 12 (text [0, 100, 0])).flatten)

def referenceOf (measured nominal : Nat) : List Byte :=
  frameBytes probeStart (text [130, 1, measured / 256, measured % 256, nominal / 256, nominal % 256])

def stepA (n : Nat) : Probe :=
  { probeA false with step := n, outstanding := some (probeReq false n) }

theorem test_deliveryDiscarded :
    after (.probeMessageReceived 0 (frameOf 6 0 250 12)) readyA = readyA ∧
    (∀ s, s = capturing (currentA .exposing) (probeA false) →
      after (.probeMessageReceived 0 (frameOf 5 0 250 12)) s = s ∧ after (.probeMessageReceived 0 (referenceOf 1 1)) s = s) := by
  and_intros <;> first | decide +kernel | (intro _ h; rw [h]; decide +kernel)

/-- 8,631 measured where 8,850 is nominal gives 1,050; the bounds 922 and 1,126 stand. -/
theorem test_reference :
    ∀ s, s = capturing (currentA .referencing) (probeA true) →
      ((after (.probeMessageReceived 0 (referenceOf 8631 8850)) s).probe 0).factor = 1050 ∧
      ((after (.probeMessageReceived 0 (referenceOf 8631 8850)) s).engine.current.map Current.phase) = some .exposing ∧
      ((after (.probeMessageReceived 0 (referenceOf 1024 922)) s).probe 0).factor = 922 ∧
      took 0 .probeDrift 0 s (after (.probeMessageReceived 0 (referenceOf 1024 921)) s) = true ∧
      ((after (.probeMessageReceived 0 (referenceOf 1024 1126)) s).probe 0).factor = 1126 ∧
      took 0 .probeDrift 0 s (after (.probeMessageReceived 0 (referenceOf 1024 1127)) s) = true ∧
      took 0 .probeDrift 0 s (after (.probeMessageReceived 0 (referenceOf 0 9)) s) = true := by
  intro _ h; rw [h]; decide +kernel

theorem test_exposure :
    (∀ s, s = capturing (currentA .exposing) (stepA 6) →
      ((after (.probeMessageReceived 0 (frameOf 6 0 250 12)) s).engine.current.map Current.phase) = some .sampling ∧
      ((after (.probeMessageReceived 0 (frameOf 6 0 249 12)) s).probe 0).step = 7 ∧
      ((after (.probeMessageReceived 0 (frameOf 6 1 1000 12)) s).probe 0).step = 5 ∧
      ((after (.probeMessageReceived 0 (frameOf 6 1 1000 12)) s).bay 0).adjustments = 1) ∧
    (∀ s, s = capturing (currentA .exposing) (stepA 1) →
      took 0 .captureExposure 0 s (after (.probeMessageReceived 0 (frameOf 1 1 1000 12)) s) = true) ∧
    (∀ s, s = capturing (currentA .exposing) (stepA 12) →
      took 0 .captureExposure 0 s (after (.probeMessageReceived 0 (frameOf 12 0 249 12)) s) = true) ∧
    (∀ s, s = capturing { currentA .exposing with exposures := 6 } (stepA 11) →
      took 0 .captureExposure 0 s (after (.probeMessageReceived 0 (frameOf 11 0 249 12)) s) = true ∧
      ((after (.probeMessageReceived 0 (frameOf 11 0 249 12)) s).probe 0).step = 12) := by
  and_intros <;> (intro _ h; rw [h]; decide +kernel)

/-- 12 of 12 zones valid is accepted, 11 of 12 is below 95 per cent and discarded. -/
theorem test_sampling :
    (∀ s, s = capturing (currentA .sampling) (stepA 6) → ∀ t, t = after (.probeMessageReceived 0 (frameOf 6 0 250 12)) s →
      (t.area 0).row 0 = some rowA ∧ (t.probe 0).count = 1 ∧ t.engine.queue = [] ∧ (t.bay 0).entry = none ∧
      SentNow 0 (bareReq .dark .work) s t) ∧
    (∀ s, s = capturing { currentA .sampling with entry := { entryA with samples := 2 } } (stepA 6) →
      ((after (.probeMessageReceived 0 (frameOf 6 0 250 12)) s).engine.current.map fun c => c.accepted.length) = some 1) ∧
    (∀ s, s = capturing { currentA .sampling with discarded := 2 } (stepA 6) →
      ((after (.probeMessageReceived 0 (frameOf 6 0 250 11)) s).engine.current.map Current.discarded) = some 3) ∧
    (∀ s, s = capturing { currentA .sampling with discarded := 3 } (stepA 6) →
      ((after (.probeMessageReceived 0 (frameOf 6 0 250 11)) s).bay 0).faults = [.captureQuality] ∧
      ((after (.probeMessageReceived 0 (frameOf 6 0 250 11)) s).bay 0).discarded = 1) := by
  unfold SentNow
  refine ⟨?_, ?_, ?_, ?_⟩
  · intro _ h _ e; rw [e, h]; decide +kernel
  all_goals intro _ h; rw [h]; decide +kernel

/-- Bay 0 in SOLVE, its plan measured, a solve of a kind in progress; no job; and a plan too dark to solve. -/
def solving (k : SolveKind) : State := (measured .solved (running (jobA .solve))).setSolve 0 (some k)

def steepRow : Row :=
  { rowA with readings := rowA.readings.set 0 { lum := 1, flag := .valid } |>.set 1 { lum := 65535, flag := .valid } }

def steep : State :=
  (running (jobA .solve)).setSolve 0 (some .first) |>.setArea 0 { rows := Vector.replicate 15 (some steepRow), frame := none }

theorem test_solveDone :
    (solving .first).worksOn 0 .solve (jobA .solve) ∧ (runSolve .first ((solving .first).area 0) paramsA).reject = none ∧
    ((solving .first).port 0).free ∧
    (∀ t, t = after (.solveDone 0) (solving .first) → (t.bay 0).job = some (jobA .transfer) ∧ (t.seq 0).phase = .opening ∧
      SentNow 0 (openReq 0) (solving .first) t ∧ (t.area 0).frame.map MapFrame.state = some .writing ∧
      Noticed (.stage 0 .transfer 0) (solving .first) t) ∧
    (∀ s, s = readyA.setSolve 0 (some .first) → after (.solveDone 0) s = readyA) := by
  unfold State.worksOn Port.free SentNow Noticed
  and_intros <;> first | decide +kernel | (intro _ h; rw [h]; decide +kernel)

theorem test_solveRejects : (runSolve .first (steep.area 0) paramsA).reject = some 2 ∧
    JobEnded 0 (jobA .solve) .rejectPanel steep (after (.solveDone 0) steep) ∧
    Noticed (.jobDone 0 .rejectPanel (text [83, 49]) .solve 0 2) steep (after (.solveDone 0) steep) := by
  unfold JobEnded RefsDropped Noticed; decide +kernel

theorem test_resolveRaisesThePass :
    (runSolve .resolve ((solving .resolve).area 0) paramsA).reject = none ∧
    ((after (.solveDone 0) (solving .resolve)).bay 0).job = some { jobA .transfer with pass := 1 } := by
  decide +kernel

/-! ## Arithmetic -/

/-- Four grants of the last 1,600 ms: the window opens 1,600 ms after the fourth newest. -/
def fullWindow : Governor :=
  { Governor.reset with
    history := [{ time := 3000, bay := 2 }, { time := 2000, bay := 0 }, { time := 1000, bay := 2 }, { time := 500, bay := 0 }],
    lastA := some 2000, lastB := some 3000 }

theorem test_earliestInstant :
    GovOk 3000 fullWindow ∧ earliestGrant fullWindow Params.reset 0 3000 = 500 + ms 1600 ∧
    GovOk 0 Governor.reset ∧ earliestGrant Governor.reset Params.reset 0 0 = 0 := by
  unfold GovOk; decide +kernel

theorem test_readings :
    ∀ c, c = { currentA .sampling with
        accepted := [(List.replicate 12 { lum := 100, status := .resolved }).set 0 { lum := 0, status := .unresolved }
          |>.set 1 { lum := 65535, status := .saturated } |>.set 2 { lum := 4, status := .resolved }] } →
      (formRow c 1126 [3]).readings.take 5 = [{ lum := 0, flag := .dark }, { lum := 65535, flag := .saturated },
        { lum := 4, flag := .dark }, { lum := 110, flag := .masked }, { lum := 110, flag := .valid }] := by
  intro _ h; rw [h]; decide +kernel

theorem test_cells :
    firstCell 614000 { lum := 1024, flag := .valid } = { cell := { gain := 614, masked := false }, below := false, beyond := false } ∧
    firstCell 613000 { lum := 1024, flag := .dark } = { cell := { gain := 614, masked := false }, below := false, beyond := true } ∧
    firstCell 500000 { lum := 500, flag := .valid } = { cell := { gain := 1024, masked := false }, below := false, beyond := false } ∧
    firstCell 500001 { lum := 500, flag := .valid } = { cell := { gain := 1024, masked := false }, below := true, beyond := false } ∧
    (firstCell 500000 { lum := 1, flag := .saturated }).cell.gain = 1024 := by
  decide +kernel

/-- Whatever the free value of log entry 16, a saturated zone of luminance 0 has a gain in range. -/
theorem test_saturatedZero (t : Nat) : 614 ≤ (firstCell t { lum := 0, flag := .saturated }).cell.gain ∧
    (firstCell t { lum := 0, flag := .saturated }).cell.gain ≤ 1024 := by
  show 614 ≤ holdGain _ ∧ holdGain _ ≤ 1024
  unfold holdGain; omega

theorem test_uniformity :
    measuredUniformity [{ lum := 100, flag := .valid }, { lum := 30, flag := .valid }, { lum := 1, flag := .masked }] = 300 ∧
    measuredUniformity [{ lum := 100, flag := .valid }, { lum := 1, flag := .dark }] = 0 ∧
    measuredUniformity [{ lum := 0, flag := .valid }] = 0 ∧ measuredUniformity [] = 0 := by
  decide +kernel

/-! ## What every step keeps -/

/-- Every bound of the line link is reached, and the next notice is lost. -/
def brimLink : Link :=
  { State.reset.link with
    inBuf := List.replicate 4 { kind := 1, tag := 1, body := [] }, setAside := 31, lost := 65535,
    errs := { length := 65535, crc := 65535, brk := 65535, overrun := 65535 }, rx := .length [0] }

theorem test_lineLinkAtItsBounds :
    LinkOk brimLink ∧ ∀ s, s = { State.reset with link := brimLink, pending := [.lineByteReceived 0] } →
      ∃ t, step s = .next t ∧ LinkOk t.link := by
  unfold LinkOk CountsOk ParamsOk
  exact ⟨by and_intros <;> decide +kernel, by intro _ h; rw [h]; exact ⟨_, rfl, by and_intros <;> decide +kernel⟩⟩

/-- A FAULTED bay at every bound, its port silent. -/
def brimBay : BayRec :=
  { BayRec.reset with
    state := .faulted, origin := some .running, faults := List.replicate 4 .setRefused, discarded := 65535,
    adjustments := 65535, overtimes := 65535, requests := 65535 }

theorem test_bayAtItsBounds : BayOk brimBay ∧ PortOk Port.reset ∧
    PortOk { portA with hold := .held, keepClock := .stopped, lapseClock := .stopped } := by
  unfold PortOk
  exact ⟨⟨by decide, by decide, by decide, by decide, by decide, fun _ => ⟨by decide, .running, rfl, .inl rfl⟩⟩,
    by decide, by decide⟩

theorem test_stockAtItsBounds :
    (stockA.records.map KeyRec.loadSeq).Pairwise (· < ·) ∧ (stockA.records.map KeyRec.keyId).Nodup ∧
    (∀ r ∈ stockA.records, r.keyId ≠ 0 ∧ r.loadSeq < stockA.nextSeq ∧ (r.state.live = false → r.blob = none)) ∧
    (∀ r ∈ stockA.records, r.state.live = true → r.blob = some keyA.blob ∧ keyA.blob.length = r.blobLen) ∧
    stockA.records.length ≤ 2048 ∧ blobUsed stockA.records ≤ 262144 := by
  and_intros <;> decide +kernel

theorem test_tableAndProbesInRange :
    profileInRange profileA = true ∧ classInRange classA = true ∧
    ProbeOk { Probe.reset with step := 12, factor := 1126, count := 255, seqNo := 255 } ∧
    ProbeOk { Probe.reset with step := 1, factor := 922 } := by
  unfold ProbeOk; decide +kernel

theorem test_grantsInOrder : GovOk (ms 100) (queued [{ time := ms 100, bay := 1 }, { time := ms 100, bay := 0 }]).gov := by
  unfold GovOk; decide +kernel

/-- A bay command, and a bay it does not act at. -/
theorem test_bayCommandElsewhere : isBayCommand (.jobAbort 1 0) = true ∧ actsAt (.jobAbort 1 0) ≠ some (1 : Bay) ∧
    (after (.jobAbort 1 0) busyA).bay 1 = busyA.bay 1 := by
  decide +kernel

/-- On an empty queue one tick passes, and none while a timer stands expired. -/
theorem test_idle : anyDue State.reset = true ∧ step State.reset = .next State.reset ∧
    ∀ s, s = { State.reset with pollers := Vector.replicate 4 { Poller.reset with next := some 1 } } →
      anyDue s = false ∧ tick s = { s with now := 1 } := by
  refine ⟨by decide +kernel, rfl, ?_⟩
  intro _ h; rw [h]; decide +kernel

/-! ## Verification, hold and the key transfer -/

/-- Bay 0 finishes a verify patch, its verify rows measured, its map WRITTEN, with a stock. -/
def verifying (cursor pass : Nat) (k : Stock) : State :=
  (measured .written (working { jobA .verify with cursor := cursor, pass := pass } .dark)).setStock k

/-- A verify row with one zone at four fifths of the others: a uniformity of 800. -/
def unevenRow : Row := { rowA with readings := rowA.readings.set 0 { lum := 80, flag := .valid } }

def uneven (s : State) : State := s.setArea 0 { s.area 0 with rows := (s.area 0).rows.set 14 (some unevenRow) }

/-- One key AVAILABLE. -/
def oneKey : Stock := { records := [keyRec 1 .available], nextSeq := 2, waiting := [] }

/-- What StockOk asks, in a form to be checked record by record. -/
theorem stockOk_of_checks (k : Stock) (hn : k.records.length ≤ 2048) (hb : blobUsed k.records ≤ 262144)
    (hr : ∀ r ∈ k.records, r.keyId ≠ 0 ∧ (r.state.live = true → r.blob.map List.length = some r.blobLen) ∧
      (r.state.live = false → r.blob = none) ∧ r.loadSeq < k.nextSeq)
    (hl : (k.records.map KeyRec.loadSeq).Pairwise (· < ·)) (hk : (k.records.map KeyRec.keyId).Nodup) : StockOk k := by
  refine ⟨hn, hb, fun r m => ?_, hl, hk⟩
  obtain ⟨a, b, c, d⟩ := hr r m
  exact ⟨⟨a, fun e => by simpa using b e, c⟩, d⟩

theorem test_stocksAreOk : StockOk stockA ∧ StockOk oneKey ∧ StockOk { oneKey with records := [keyRec 1 (.reserved 0)] } :=
  ⟨stockOk_of_checks _ (by decide) (by decide) (by decide +kernel) (by decide) (by decide),
    stockOk_of_checks _ (by decide) (by decide) (by decide +kernel) (by decide) (by decide),
    stockOk_of_checks _ (by decide) (by decide) (by decide +kernel) (by decide) (by decide)⟩

/-- Uniformities of 1,000 verify the map, and KEYS sends the first chunk, or joins the waiting list and goes into hold. -/
theorem test_verified :
    (verifying 2 0 oneKey).worksOn 0 .verify { jobA .verify with cursor := 2 } ∧
    openFrame 90 1012 (answer [7, 0]) = some [7, 0] ∧ (0 : Bay) ∉ oneKey.claimants ∧
    (∀ t, t = after (.setAnswerReceived 0 (answer [7, 0])) (verifying 2 0 oneKey) →
      ((t.area 0).row 12).bind Row.uniformity = some 1000 ∧ ((t.area 0).row 11).bind Row.uniformity = none ∧
      (t.area 0).frame.map MapFrame.state = some .verified ∧ (t.bay 0).stage? = some .keys ∧
      (t.stock.find 1).map KeyRec.state = some (.sending 0) ∧
      SentNow 0 (chunkReq 1 0 1 keyA.blob) (verifying 2 0 oneKey) t) ∧
    (∀ t, t = after (.setAnswerReceived 0 (answer [7, 0])) (verifying 2 0 Stock.reset) →
      t.stock.waiting.map KeyWait.bay = [0] ∧ (t.port 0).hold = .entering ∧
      SentNow 0 (bareReq .hold .work) (verifying 2 0 Stock.reset) t) := by
  unfold State.worksOn SentNow
  refine ⟨by decide +kernel, by decide +kernel, by decide +kernel, ?_, ?_⟩ <;> (intro _ h; rw [h]; decide +kernel)

/-- One channel below the target: a pass below the limit is solved again, one at the limit rejects the panel; and a patch before
the third asks for an admission. -/
theorem test_notVerified :
    (∀ t, t = after (.setAnswerReceived 0 (answer [7, 0])) (uneven (verifying 2 0 oneKey)) →
      ((t.area 0).row 14).bind Row.uniformity = some 800 ∧ (t.area 0).frame.map MapFrame.state = some .written ∧
      t.solve 0 = some .resolve ∧ (t.bay 0).stage? = some .solve) ∧
    (∀ t, t = after (.setAnswerReceived 0 (answer [7, 0])) (uneven (verifying 2 1 oneKey)) →
      (t.bay 0).state = .stopped ∧ Noticed (.jobDone 0 .rejectPanel (text [83, 49]) .verify 1 4) (verifying 2 1 oneKey) t) ∧
    (∀ t, t = after (.setAnswerReceived 0 (answer [7, 0])) (verifying 0 0 oneKey) →
      (t.bay 0).job = some { jobA .verify with cursor := 1 } ∧ t.gov.held.map Held.bay = [0] ∧
      SentNow 0 (showReq .green 64) (verifying 0 0 oneKey) t) := by
  unfold Noticed SentNow
  refine ⟨?_, ?_, ?_⟩ <;> (intro _ h; rw [h]; decide +kernel)

/-- Bay 0 waits in KEYS, or has key 2 reserved, its port in a hold state. -/
def holding (h : HoldState) (pending : Bool) (s : State) : State :=
  s.setPort 0 { s.port 0 with hold := h, wakePending := pending }

def reservedA (check : BitVec 32) : State :=
  (running { jobA .keys with keyId := some 1 }).setStock
    { oneKey with records := [{ keyRec 1 (.reserved 0) with check := check }] }

theorem test_holdAnswered :
    (∀ s, s = holding .entering false (outstanding .hold .work (ms 200) (running (jobA .keys))) →
      after (.setAnswerReceived 0 (answer [4, 0])) s = s.setPort 0 { portA with
        hold := .held, keepClock := .stopped, lapseClock := .stopped } ∧
      took 0 .setRefused 7 s (after (.setAnswerReceived 0 (answer [4, 7])) s) = true ∧
      ((after (.setAnswerReceived 0 (answer [4, 7])) s).port 0).hold = .none) ∧
    (∀ s, s = holding .entering true (outstanding .hold .work (ms 200) (running (jobA .keys))) →
      SentNow 0 (bareReq .wake .cleanup) s (after (.setAnswerReceived 0 (answer [4, 0])) s) ∧
      ((after (.setAnswerReceived 0 (answer [4, 0])) s).port 0).hold = .waking) := by
  unfold SentNow; refine ⟨?_, ?_⟩ <;> (intro _ h; rw [h]; decide +kernel)

/-- AWAKE starts the transfer of the reservation, voids one that fails the check, or just ends hold; refused, the set stays held
and the bay faults. -/
theorem test_wakeAnswered :
    (∀ s, s = holding .waking false (outstanding .wake .work (ms 200) (reservedA keyA.check)) →
      (∀ t, t = after (.setAnswerReceived 0 (answer [5, 0])) s → (t.port 0).hold = .none ∧
        (t.port 0).keepClock = .running 0 (ms 100) ∧ (t.stock.find 1).map KeyRec.state = some (.sending 0) ∧
        SentNow 0 (chunkReq 1 0 1 keyA.blob) s t) ∧
      took 0 .setRefused 9 { s with bays := s.bays.map (fun r => { r with job := r.job.map Job.keyless }) }
        (after (.setAnswerReceived 0 (answer [5, 9])) s) = true) ∧
    (∀ s, s = holding .waking false (outstanding .wake .work (ms 200) (reservedA 0)) →
      keyWanted s 0 = some (1, regionA) ∧
      (∀ t, t = after (.setAnswerReceived 0 (answer [5, 0])) s →
        (t.stock.find 1).map KeyRec.state = some (.voided none .preSendCheck) ∧ t.stock.waiting.map KeyWait.bay = [0] ∧
        SentNow 0 (bareReq .hold .work) s t)) ∧
    (∀ s, s = holding .waking false (outstanding .wake .work (ms 200) readyA) →
      after (.setAnswerReceived 0 (answer [5, 0])) s = s.setPort 0
        { portA with keepClock := .running 0 (ms 100), lapseClock := .running 0 (ms 100) }) := by
  unfold SentNow
  and_intros <;> (intro _ h; rw [h]; and_intros <;> first | decide +kernel | (intro _ e; rw [e]; decide +kernel))

/-- A loaded key wakes the set of the bay that waits for it, keeps WAKE pending while HOLD is out, and is sent at once where the
HOLD had not gone out. -/
theorem test_loadedKeyWakes :
    SentNow 0 (bareReq .wake .work) (holding .held false waitingForKey) (after (.keyLoad 1 keyA) (holding .held false waitingForKey)) ∧
    ((after (.keyLoad 1 keyA) (holding .held false waitingForKey)).port 0).hold = .waking ∧
    ((after (.keyLoad 1 keyA) (outstanding .hold .work (ms 200) (holding .entering false waitingForKey))).port 0).wakePending =
      true ∧
    (∀ s, s = outstanding .keep .work (ms 200) (waitingForKey.setPort 0 { portA with queue := [bareReq .hold .work] }) →
      ((after (.keyLoad 1 keyA) s).port 0).queue = [chunkReq 1 0 1 keyA.blob]) := by
  unfold SentNow; and_intros <;> first | decide +kernel | (intro _ h; rw [h]; decide +kernel)

/-- Key 3 is being sent in two chunks. -/
def chunking (attempts k : Nat) (last : Bool) (owner : Owner) : State :=
  outstanding (.storeKey k last) owner (ms 200)
    (((running { jobA .keys with keyId := some 3, attempts := attempts }).setStock
      { stockA with records := stockA.records.map (fun r => if r.keyId = 2 then { r with state := .available } else r) }).setXfer 0
      { phase := .chunks, keyId := some 3, chunks := 2, cursor := k })

theorem test_chunksAnswered :
    (chunking 0 0 false .work).stock.claimants.Nodup ∧
    (∀ t, t = after (.setAnswerReceived 0 (answer [9, 0])) (chunking 0 0 false .work) →
      t.xfer 0 = { phase := .chunks, keyId := some 3, chunks := 2, cursor := 1 } ∧
      SentNow 0 (chunkReq 1 1 2 keyA.blob) (chunking 0 0 false .work) t) ∧
    (∀ t, t = after (.setAnswerReceived 0 (answer [9, 0])) (chunking 0 1 true .work) →
      t.xfer 0 = { phase := .ending, keyId := some 3, chunks := 2, cursor := 2 } ∧
      SentNow 0 (keyEndReq 1 2) (chunking 0 1 true .work) t) ∧
    (∀ t, t = after (.setAnswerReceived 0 (answer [9, 8])) (chunking 0 0 false .work) →
      (t.stock.find 3).map KeyRec.state = some (.voided (some (text [83, 49])) (.setRefused 8)) ∧
      (t.bay 0).job = some { jobA .keys with keyId := some 1, attempts := 1 } ∧
      Noticed (.keyVoided 3 1 1 0 (some (text [83, 49])) (.setRefused 8)) (chunking 0 0 false .work) t ∧
      SentNow 0 (chunkReq 1 0 1 keyA.blob) (chunking 0 0 false .work) t) ∧
    (∀ t, t = after (.setAnswerReceived 0 (answer [9, 8])) (chunking 1 0 false .work) →
      JobEnded 0 { jobA .keys with attempts := 1 } .rejectKey (chunking 1 0 false .work) t ∧ t.xfer 0 = Xfer.reset ∧
      t.link.placed.getLast? = some (.notice false (.jobDone 0 .rejectKey (text [83, 49]) .keys 0 1))) := by
  unfold SentNow Noticed JobEnded RefsDropped
  refine ⟨by decide +kernel, ?_, ?_, ?_, ?_⟩ <;> (intro _ h; rw [h]; decide +kernel)

/-- A refused KEY END, and one whose OK lacks its check value, void the record. -/
theorem test_keyEndRefused :
    (∀ t, t = after (.setAnswerReceived 0 (answer [10, 1])) (ending 0) →
      (t.stock.find 3).map KeyRec.state = some (.voided (some (text [83, 49])) (.setRefused 1)) ∧
      (t.bay 0).job.map Job.attempts = some 1) ∧
    (∀ t, t = after (.setAnswerReceived 0 (answer [10, 0])) (ending 1) →
      (t.stock.find 3).map KeyRec.state = some (.voided (some (text [83, 49])) (.setRefused 0)) ∧
      (t.bay 0).job.map Job.verdict = some (some .rejectKey)) := by
  refine ⟨?_, ?_⟩ <;> (intro _ h; rw [h]; decide +kernel)

/-! ## Sections, refusals and requests left over -/

/-- Bay 0's section request belongs to a bay that has been cleaned up, CLOSE SECTION queued behind it. -/
def leftSection (w : ReqWhat) (queue : List PortReq) : State :=
  (faultedIn .running [.driveOvertime] (transferring 1 0 .writing w)).setPort 0
    { portA with openSection := some 1, queue := queue,
                 outstanding := some { req := { what := w, owner := .orphan, body := [] }, deadline := ms 200 } }

theorem test_burstsAnswered :
    (∀ t, t = after (.setAnswerReceived 0 (answer [12, 0])) (transferring 0 0 .writing (.burst 0 0 false)) →
      get12 (t.seq 0).confirmed 0 = 64 ∧ (t.seq 0).burst = 1 ∧
      SentNow 0 (burstReq 0 1 cellsA) (transferring 0 0 .writing (.burst 0 0 false)) t) ∧
    (∀ s, s = leftSection (.burst 1 0 false) [] →
      get12 ((after (.setAnswerReceived 0 (answer [12, 0])) s).seq 0).confirmed 1 = 64 ∧
      ((after (.setAnswerReceived 0 (answer [12, 0])) s).port 0).outstanding = none) ∧
    (∀ s, s = leftSection (.burst 1 0 false) [closeReq 1] →
      SentNow 0 (closeReq 1) s (after (.setAnswerReceived 0 (answer [12, 0])) s)) ∧
    (∀ s, s = leftSection (.burst 1 0 true) [closeReq 1] →
      (after (.setAnswerReceived 0 (answer [12, 0, 1, 2])) s).port 0 = portA ∧
      get12 ((after (.setAnswerReceived 0 (answer [12, 0, 1, 2])) s).seq 0).confirmed 1 = 12) := by
  unfold SentNow; refine ⟨?_, ?_, ?_, ?_⟩ <;> (intro _ h; rw [h]; decide +kernel)

/-- CLOSED lets the port go on, a KEEP that is due first; a sequencer that waits opens its section, or applies the map. -/
theorem test_closedAnswered :
    (∀ s, s = leftSection (.closeSection 1) [] → (after (.setAnswerReceived 0 (answer [13, 0, 0, 5])) s).port 0 = portA) ∧
    (∀ s, s = leftSection (.closeSection 1) [bareReq .dark .cleanup] →
      SentNow 0 (bareReq .dark .cleanup) s (after (.setAnswerReceived 0 (answer [13, 0, 0, 5])) s) ∧
      ∀ s', s' = s.setPort 0 { s.port 0 with keepDue := true } →
        SentNow 0 (bareReq .keep .work) s' (after (.setAnswerReceived 0 (answer [13, 0, 0, 5])) s')) ∧
    (∀ s, s = (transferring 1 0 .writing (.closeSection 1)).setSeq 0 { Sequencer.reset with phase := .closing, sec := 1 } →
      SentNow 0 (openReq 1) s (after (.setAnswerReceived 0 (answer [13, 0, 0, 5])) s)) ∧
    (∀ s, s = (transferring 3 0 .writing (.closeSection 1)).setSeq 0 { Sequencer.reset with phase := .closing, sec := 3 } →
      SentNow 0 (bareReq .applyMap .work) s (after (.setAnswerReceived 0 (answer [13, 0, 0, 5])) s)) := by
  unfold SentNow
  refine ⟨?_, ?_, ?_, ?_⟩ <;> (intro _ h; rw [h]; first | decide +kernel | exact ⟨by decide +kernel, by intro _ e; rw [e]; decide +kernel⟩)

theorem test_refusalsFault :
    (∀ s, s = working (jobA .measure) .show → took 0 .setRefused 1 s (after (.setAnswerReceived 0 (answer [6, 1])) s) = true) ∧
    (∀ s, s = working (jobA .measure) .dark → took 0 .setRefused 255 s (after (.setAnswerReceived 0 (answer [7, 255])) s) = true) ∧
    (∀ s, s = (transferring 1 0 .writing (.openSection 1)).setPort 0
        { (transferring 1 0 .writing (.openSection 1)).port 0 with openSection := some 1 } →
      took 0 .setRefused 1 s (after (.setAnswerReceived 0 (answer [11, 1])) s) = true ∧
      ((after (.setAnswerReceived 0 (answer [11, 1])) s).port 0).openSection = none ∧
      ((after (.setAnswerReceived 0 (answer [11, 1])) s).port 0).outstanding = none) ∧
    (∀ s, s = (transferring 1 0 .writing (.burst 1 0 false)).setPort 0
        { (transferring 1 0 .writing (.burst 1 0 false)).port 0 with openSection := some 1 } →
      took 0 .setRefused 1 s (after (.setAnswerReceived 0 (answer [12, 1])) s) = true ∧
      SentNow 0 (closeReq 1) s (after (.setAnswerReceived 0 (answer [12, 1])) s)) ∧
    (∀ s, s = transferring 3 0 .writing .applyMap →
      took 0 .setRefused 1 s (after (.setAnswerReceived 0 (answer [14, 1])) s) = true ∧
      ((after (.setAnswerReceived 0 (answer [14, 1])) s).seq 0).phase = .halted) := by
  unfold SentNow; refine ⟨?_, ?_, ?_, ?_, ?_⟩ <;> (intro _ h; rw [h]; decide +kernel)

/-- A chunk left over from before a cleanup ends a transfer that waits for it, answered or refused. -/
theorem test_leftOverChunk :
    ∀ s, s = faultedIn .running [.driveOvertime] ((chunking 0 0 false .orphan).setXfer 0
        { phase := .halted, keyId := some 3, chunks := 2, cursor := 0 }) →
      (after (.setAnswerReceived 0 (answer [9, 0])) s).xfer 0 = Xfer.reset ∧
      ((after (.setAnswerReceived 0 (answer [9, 0])) s).port 0).outstanding = none ∧
      (after (.setAnswerReceived 0 (answer [9, 3])) s).xfer 0 = Xfer.reset ∧
      ((after (.setAnswerReceived 0 (answer [9, 3])) s).bay 0).faults = [.driveOvertime, .setRefused] := by
  intro _ h; rw [h]; decide +kernel

/-- The DARK of a cleanup clears the showing flag; the DARK of a revocation lets the SHOW of a grant go. -/
theorem test_leftOverDark :
    (∀ s, s = outstanding .dark .cleanup (ms 200) (readyA.setBay 0 { readyA.bay 0 with showing := true }) →
      ((after (.setAnswerReceived 0 (answer [7, 0])) s).bay 0) = readyA.bay 0) ∧
    (∀ s, s = outstanding .dark .restart (ms 200) (((running highJob).setBay 0
        { (running highJob).bay 0 with showing := true, showPending := true }).setGov
          { Governor.reset with held := [{ bay := 0, granted := ms 100, expires := ms 4100 }] }) →
      SentNow 0 (showReq .red 512) s (after (.setAnswerReceived 0 (answer [7, 0])) s) ∧
      (after (.setAnswerReceived 0 (answer [7, 0])) s).gov = s.gov ∧ s.gov.held.map Held.bay = [0]) ∧
    (∀ s, s = outstanding .applyMap .orphan (ms 200) (measured .writing (running (jobA .transfer))) →
      ((after (.setAnswerReceived 0 (answer [14, 0])) s).area 0).frame = some (frameA .written) ∧
      ((after (.setAnswerReceived 0 (answer [14, 0])) s).bay 0).job = some (jobA .transfer)) := by
  unfold SentNow; refine ⟨?_, ?_, ?_⟩ <;> (intro _ h; rw [h]; decide +kernel)

/-! ## Cleanup, resume and release -/

/-- Bay 0 sends a key with a section open, showing a field. -/
def busyBay (st : BayState) : State :=
  (((ending 0).setBay 0 { (ending 0).bay 0 with showing := true, state := st, origin := some .running,
                                                faults := [.setRefused] }).setPort 0
    { portA with openSection := some 1 }).setArea 0 { Area.reset with frame := some (frameA .writing) }

/-- An abort voids the key before JOB DONE, records the section PARTIAL, and leaves CLOSE SECTION, then DARK. -/
theorem test_abortCleansUp :
    (busyBay .running).entryFree ∧ ∀ t, t = after (.jobAbort 1 0) (busyBay .running) →
      t.link.placed = (busyBay .running).link.placed ++ [.reply 9 1 .ok [],
        .notice false (.keyVoided 3 1 1 0 (some (text [83, 49])) .cleanup),
        .notice false (.jobDone 0 .aborted (text [83, 49]) .keys 0 0)] ∧
      ((t.area 0).frame.map fun f => f.sections.map Section.outcome) = some [.notSent, .incomplete, .notSent] ∧
      (t.stock.find 2).map KeyRec.state = some .available ∧
      SentNow 0 (closeReq 1) (busyBay .running) t ∧ (t.port 0).queue = [bareReq .dark .cleanup] ∧ (t.bay 0).showing = true := by
  unfold State.entryFree SentNow; exact ⟨by decide +kernel, by intro _ h; rw [h]; decide +kernel⟩

/-- A hold that stands is left with a WAKE between the two. -/
theorem test_owed :
    Port.owed { portA with openSection := some 1, hold := .held } true =
      [closeReq 1, bareReq .wake .cleanup, bareReq .dark .cleanup] ∧
    Port.owed { portA with openSection := some 1, queue := [closeReq 1] } false = [] := by
  decide +kernel

/-- RELEASE places what the set is owed, and the slots of the open job lose their references. -/
theorem test_releaseOwes :
    ∀ s, s = { busyBay .faulted with table := heldSlots.table } →
      ∀ t, t = after (.bayRelease 1 0) s → SentNow 0 (closeReq 1) s t ∧ (t.port 0).queue = [bareReq .dark .cleanup] ∧
        t.table = tableA ∧ (t.bay 0).showing = true := by
  intro _ h _ e; rw [e, h]; unfold SentNow; decide +kernel

/-- A bay FAULTED out of a stage. -/
def haltedIn (j : Job) : State := faultedIn .running [.setRefused] (running j)

/-- The restart points of MEASURE (low and high drive), SOLVE, KEYS and FINISH. -/
theorem test_restartPoints :
    SentNow 0 (showReq .red 64) (haltedIn (jobA .measure)) (after (.bayResume 1 0) (haltedIn (jobA .measure))) ∧
    (∀ t, t = after (.bayResume 1 0) (haltedIn { highJob with overtime := 3 }) →
      (t.bay 0).job = some highJob ∧ t.gov.held.map Held.bay = [0]) ∧
    (after (.bayResume 1 0) (haltedIn { jobA .solve with solveKind := .resolve })).solve 0 = some .resolve ∧
    (∀ s, s = (haltedIn (jobA .keys)).setStock oneKey → (s.port 0).free ∧ (0 : Bay) ∉ s.stock.claimants ∧
      SentNow 0 (chunkReq 1 0 1 keyA.blob) s (after (.bayResume 1 0) s)) ∧
    SentNow 0 (bareReq .finish .work) (haltedIn (jobA .finish)) (after (.bayResume 1 0) (haltedIn (jobA .finish))) := by
  unfold SentNow Port.free; and_intros <;> first | decide +kernel | (intro _ h; rw [h]; decide +kernel)

/-- The restart points of TRANSFER: a section still open is closed first, else the section at the cursor, else APPLY MAP. -/
theorem test_restartOfTransfer :
    (∀ s, s = (measured .writing (haltedIn (jobA .transfer))).setPort 0 { portA with openSection := some 0 } →
      SentNow 0 (closeReq 0) s (after (.bayResume 1 0) s) ∧ ((after (.bayResume 1 0) s).seq 0).phase = .closing) ∧
    (∀ s, s = (measured .writing (haltedIn (jobA .transfer))).setSeq 0 { Sequencer.reset with phase := .halted, sec := 2 } →
      SentNow 0 (openReq 2) s (after (.bayResume 1 0) s)) ∧
    (∀ s, s = (measured .writing (haltedIn (jobA .transfer))).setSeq 0 { Sequencer.reset with phase := .halted, sec := 3 } →
      SentNow 0 (bareReq .applyMap .work) s (after (.bayResume 1 0) s) ∧
      ((after (.bayResume 1 0) s).seq 0).phase = .applying) := by
  unfold SentNow; refine ⟨?_, ?_, ?_⟩ <;> (intro _ h; rw [h]; decide +kernel)

/-- A shorter service deadline takes a lapse, and a KEEP already taken is not due again. -/
theorem test_clocksReached :
    (∀ s, s = { readyA with now := ms 1500 } → paramAdmitted s.link.params 5 1500 ∧
      ((after (.configure 1 5 1500) s).bay 0).faults = [.serviceLapsed] ∧
      ((after (.configure 1 5 1500) s).port 0).linkAlive = false ∧
      ((after (.configure 1 5 1501) s).port 0).linkAlive = true) ∧
    (∀ s, s = ({ readyA with now := ms 800 }).setPort 0 { portA with keepTaken := some (ms 800) } →
      after (.keepDue 0) s = s) := by
  unfold paramAdmitted; refine ⟨?_, ?_⟩ <;> (intro _ h; rw [h]; decide +kernel)

/-- A revocation with nobody waiting: DARK goes out and the request made again waits for its instant; a SHOW not yet sent is
withdrawn instead; an entry withdrawn leaves its patch's row, filled by an earlier completion, and one that has left the queue
empties it. -/
theorem test_overtimeAskedAgain :
    (∀ t, t = after (.overtimeExpiry 0) (overtimeAt 1 []) → SentNow 0 (bareReq .dark .restart) (overtimeAt 1 []) t ∧
      t.gov.queue = [{ bay := 0, joined := ms 100 }] ∧ t.gov.headTimer = some (ms 400)) ∧
    (∀ s, s = outstanding .keep .work (ms 200) ((overtimeAt 1 []).setPort 0 { portA with queue := [showReq .red 512] }) →
      ((after (.overtimeExpiry 0) s).port 0).queue = []) ∧
    (∀ s, s = (measured .solved (capturing (currentA .sampling) (probeA false))).setGov (overtimeAt 1 []).gov →
      (after (.overtimeExpiry 0) s).area 0 = s.area 0 ∧ (after (.overtimeExpiry 0) s).engine.queue = [] ∧
      (after (.overtimeExpiry 0) s).engine.current = none) ∧
    (∀ s, s = ((measured .solved (capturing (currentA .sampling) (probeA false))).setGov (overtimeAt 1 []).gov).setEngine
        Engine.reset →
      ((after (.overtimeExpiry 0) s).area 0).row 0 = none ∧ ((after (.overtimeExpiry 0) s).area 0).row 1 = some rowA) := by
  unfold SentNow; refine ⟨?_, ?_, ?_, ?_⟩ <;> (intro _ h; rw [h]; decide +kernel)

theorem test_probeFrameThatDoesNotParse :
    ∀ s, s = capturing (currentA .exposing) (probeA false) →
      openFrame 60 1752 (frameBytes probeStart (text [128])) = some (text [128]) ∧ parseDelivery (text [128]) = none ∧
      after (.probeMessageReceived 0 (frameBytes probeStart (text [128]))) s = s ∧
      after (.probeMessageReceived 0 []) s = s := by
  intro _ h; rw [h]; decide +kernel

theorem test_firstByteAfterBreak :
    (after (.lineByteReceived 165) (after .lineBreak (receiving (.length [0]) State.reset))).link.rx = .length [] ∧
    (after (.lineByteReceived 4) (after .lineBreak (receiving (.length [0]) State.reset))).link.rx = .hunt := by
  decide +kernel

/-! ## The solves -/

/-- A plan whose rows are all one row. -/
def plan (r : Row) : Area := { rows := Vector.replicate 15 (some r), frame := none }

/-- One zone at four fifths of the others: each is driven down to it, to a predicted uniformity of 999. -/
theorem test_firstSolve :
    ∀ r, r = { rowA with readings := rowA.readings.set 0 { lum := 80, flag := .valid } } →
      (runSolve .first (plan r) paramsA).reject = none ∧
      (runSolve .first (plan r) paramsA).sections.map (fun c => (c.summary.target, c.summary.predicted, c.cells.take 2)) =
        List.replicate 3 (80, some 999, [{ gain := 1024, masked := false }, { gain := 819, masked := false }]) := by
  intro _ h; rw [h]; decide +kernel

/-- A DARK zone rejects with 1, a zone out of range with 2, a uniformity short of the target with 3. -/
theorem test_firstSolveRejects :
    (runSolve .first (plan { rowA with readings := rowA.readings.set 0 { lum := 1, flag := .dark } }) paramsA).reject = some 1 ∧
    (runSolve .first (plan steepRow) paramsA).reject = some 2 ∧
    (runSolve .first (plan { rowA with readings := rowA.readings.set 0 { lum := 50, flag := .valid } })
      { paramsA with tolerance := 12 }).reject = some 3 := by
  decide +kernel

theorem test_resolveCells :
    resolveCell 80000 { gain := 1000, masked := false } { lum := 100, flag := .valid } =
      { cell := { gain := 800, masked := false }, below := false, beyond := false } ∧
    resolveCell 61300 { gain := 1000, masked := false } { lum := 100, flag := .dark } =
      { cell := { gain := 614, masked := false }, below := false, beyond := true } ∧
    resolveCell 100001 { gain := 1024, masked := false } { lum := 100, flag := .valid } =
      { cell := { gain := 1024, masked := false }, below := true, beyond := false } ∧
    resolveCell 5 { gain := 614, masked := false } { lum := 0, flag := .dark } =
      { cell := { gain := 1024, masked := false }, below := true, beyond := false } ∧
    (∀ a, a = (measured .written readyA).area 0 → (runSolve .resolve a paramsA).sections.length = 3 ∧
      (runSolve .resolve a paramsA).reject = none) ∧
    (∀ a, a = { (plan steepRow) with frame := some (frameA .written) } → (runSolve .resolve a paramsA).reject = some 2) := by
  and_intros <;> first | decide +kernel | (intro _ h; rw [h]; decide +kernel)

/-! ## References and claims -/

/-- A bay RUNNING with its slots referenced once; its abort leaves none. -/
theorem test_referencesCounted :
    RefsOk { running (jobA .solve) with table := heldSlots.table } ∧
    RefsOk (after (.jobAbort 1 0) { running (jobA .solve) with table := heldSlots.table }) ∧
    (after (.jobAbort 1 0) { running (jobA .solve) with table := heldSlots.table }).table = tableA := by
  unfold RefsOk BayRec.JobPlaced; decide +kernel

/-- Every kind of claim held at once, over a step. -/
theorem test_claimsHeld :
    ∀ s, s = { (((overtimeAt 0 [{ bay := 2, joined := 0 }]).setEngine { readyA.engine with queue := [entryA] }).setStock
        { oneKey with records := [keyRec 1 (.reserved 0)], waiting := [{ bay := 1, cls := 1, region := regionA, joined := 0 }] })
        with pending := [.overtimeExpiry 0] } →
      StockOk s.stock ∧ OneClaimEach s ∧ ∃ t, step s = .next t ∧ OneClaimEach t := by
  intro _ h; rw [h]; unfold OneClaimEach
  exact ⟨stockOk_of_checks _ (by decide) (by decide) (by decide +kernel) (by decide) (by decide), by decide +kernel,
    _, rfl, by decide +kernel⟩

/-! ## Further clauses at their bounds -/

/-- In FAULTED a late HELLO brings link-alive up after the attach timer's expiry, and only then; a newer HELLO in the queue is
withdrawn, and after a refusal or a timeout it is what stays outstanding. -/
theorem test_lateHello :
    (∀ s, s = faultedIn .attaching [.attachTimeout] (attaching .hello Port.reset) →
      ((after (.setAnswerReceived 0 (answer [1, 0])) s).port 0) = { portA with
        keepClock := .running 0 (ms 100), lapseClock := .running 0 (ms 100) } ∧
      ((after (.setAnswerReceived 0 (answer [1, 0])) s).poller 0).helloAnswered = true ∧
      ((after (.setAnswerReceived 0 (answer [1, 6])) s).port 0).linkAlive = false) ∧
    (∀ s, s = faultedIn .attaching [.setSilent] (attaching .hello Port.reset) →
      ((after (.setAnswerReceived 0 (answer [1, 0])) s).port 0) = Port.reset ∧
      ((after (.setAnswerReceived 0 (answer [1, 0])) s).poller 0).helloAnswered = true) ∧
    (∀ s, s = attaching .hello { Port.reset with queue := [bareReq .hello .work] } →
      ((after (.setAnswerReceived 0 (answer [1, 4])) s).poller 0).helloOut = true ∧
      ((after (.setRequestTimeout 0) { s with now := ms 200 }).poller 0).helloOut = true ∧
      ((after (.setAnswerReceived 0 (answer [1, 0])) s).port 0).queue = []) := by
  refine ⟨?_, ?_, ?_⟩ <;> (intro _ h; rw [h]; decide +kernel)

/-- A lapse takes an open section with it; an entry withdrawn by a cleanup leaves the filled rows, but one that has left the queue
empties its patch's row. -/
theorem test_silenceCleansUp :
    (∀ s, s = (measured .writing silent).setPort 0 { portA with openSection := some 2 } →
      ((after (.lapse 0) s).port 0).openSection = none ∧
      ((after (.lapse 0) s).area 0).frame.map (fun f => f.sections.map Section.outcome) =
        some [.notSent, .notSent, .incomplete]) ∧
    (∀ s, s = { measured .solved (capturing (currentA .sampling) (probeA false)) with now := ms 2000 } →
      ((after (.lapse 0) s).area 0).rows = (s.area 0).rows ∧ (after (.lapse 0) s).engine.current = none) ∧
    (∀ s, s = { (measured .solved (capturing (currentA .sampling) (probeA false))).setEngine Engine.reset with now := ms 2000 } →
      ((after (.lapse 0) s).area 0).row 0 = none ∧ ((after (.lapse 0) s).area 0).row 14 = some rowA) := by
  refine ⟨?_, ?_, ?_⟩ <;> (intro _ h; rw [h]; decide +kernel)

/-- In ATTACHING an opening contact ends a key transfer that waited for a request left over. -/
theorem test_pollOpensOnAHaltedTransfer :
    ∀ s, s = pollDue ((attaching .keyEnd Port.reset).setXfer 0 { phase := .halted, keyId := some 3, chunks := 1, cursor := 1 }) →
      ((after (.poll 0 false) s).bay 0).state = .empty ∧ (after (.poll 0 false) s).xfer 0 = Xfer.reset ∧
      (after (.poll 0 false) s).port 0 = Port.reset := by
  intro _ h; rw [h]; decide +kernel

/-- A shorter interval with a request out makes a KEEP due that waits; with ENTERING likewise. -/
theorem test_shorterIntervalWaits :
    (∀ s, s = outstanding .dark .work (ms 300) { readyA with now := ms 200 } →
      ((after (.configure 1 4 200) s).port 0).keepDue = true ∧ ((after (.configure 1 4 300) s).port 0).keepDue = false) ∧
    (∀ s, s = holding .entering false { readyA with now := ms 200 } →
      ((after (.configure 1 4 200) s).port 0).keepDue = true) := by
  refine ⟨?_, ?_⟩ <;> (intro _ h; rw [h]; decide +kernel)

/-- A revocation with a SHOW out leaves it to move nothing and queues DARK; granted again at once, a SHOW waits for that DARK,
and one not yet sent is simply placed again. -/
theorem test_overtimeGrantedAtOnce :
    (∀ s, s = outstanding .show .work (ms 200) (overtimeAt 0 [{ bay := 2, joined := 0 }]) →
      ((after (.overtimeExpiry 0) s).port 0).queue = [bareReq .dark .restart] ∧
      ((after (.overtimeExpiry 0) s).port 0).outstanding.map (fun o => o.req.owner) = some .orphan ∧
      ((after (.overtimeExpiry 0) s).bay 0).showPending = false) ∧
    (∀ s, s = (overtimeAt 0 []).setGov { (overtimeAt 0 []).gov with lastA := none } →
      SentNow 0 (bareReq .dark .restart) s (after (.overtimeExpiry 0) s) ∧
      ((after (.overtimeExpiry 0) s).bay 0).showPending = true ∧
      ∀ s', s' = outstanding .keep .work (ms 200) (s.setPort 0 { portA with queue := [showReq .red 512] }) →
        ((after (.overtimeExpiry 0) s').port 0).queue = [showReq .red 512]) := by
  unfold SentNow
  refine ⟨by intro _ h; rw [h]; decide +kernel, ?_⟩
  intro _ h; rw [h]
  exact ⟨by decide +kernel, by decide +kernel, by intro _ e; rw [e]; decide +kernel⟩

/-- A KEEP whose refusal came first is sent again ahead of the restart point. -/
theorem test_resumeSendsTheKeepFirst :
    ∀ s, s = (haltedIn (jobA .region)).setBay 0 { (haltedIn (jobA .region)).bay 0 with firstKeep := true } →
      SentNow 0 (bareReq .keep .work) s (after (.bayResume 1 0) s) ∧
      ((after (.bayResume 1 0) s).port 0).queue = [regionReq profileA] := by
  intro _ h; rw [h]; unfold SentNow; decide +kernel

/-- A KEEP that fell due behind a HELLO, link-alive true after a RELEASE, stays due and is sent first. -/
theorem test_keepDueBehindAHello :
    (∀ s, s = attaching .hello { portA with keepDue := true } →
      ∀ t, t = after (.setAnswerReceived 0 (answer [1, 0])) s →
        SentNow 0 (bareReq .keep .work) s t ∧ (t.port 0).queue = [bareReq .identify .work] ∧ (t.port 0).keepDue = false ∧
        (t.port 0).lapseClock = .running 0 s.now) ∧
    (∀ s, s = faultedIn .attaching [.attachTimeout] (attaching .hello { portA with keepDue := true }) →
      SentNow 0 (bareReq .keep .work) s (after (.setAnswerReceived 0 (answer [1, 0])) s)) := by
  unfold SentNow
  refine ⟨?_, ?_⟩
  · intro _ h _ e; rw [e, h]; decide +kernel
  · intro _ h; rw [h]; decide +kernel

/-- A FINISH left over and answered OK takes link-alive down, an open section with it, and a queued pass is replied. -/
theorem test_leftOverFinish :
    (∀ s, s = outstanding .finish .orphan (ms 200)
        ((measured .writing (stoppedWith .aborted)).setPort 0 { portA with openSection := some 1, queue := [bareReq .dark .cleanup] }) →
      ∀ t, t = after (.setAnswerReceived 0 (answer [15, 0])) s →
        t.bay 0 = s.bay 0 ∧ t.port 0 = Port.reset ∧ t.link = s.link ∧
        (t.area 0).frame.map (fun f => f.sections.map Section.outcome) = some [.notSent, .incomplete, .notSent]) ∧
    (∀ s, s = (outstanding .finish .orphan (ms 200) (tunnelling (.queued 9))).setLink { readyA.link with setAside := 1 } →
      ∀ t, t = after (.setAnswerReceived 0 (answer [15, 0])) s →
        (t.bay 0).state = .tunnel ∧ (t.port 0).linkAlive = false ∧
        (t.port 0).tunnel = some { trap := 65535, fwd := 3, pass := .none } ∧
        t.link.placed = s.link.placed ++ [.reply 17 9 .badState []] ∧ t.link.setAside = 0) := by
  refine ⟨?_, ?_⟩ <;> (intro _ h _ e; rw [e, h]; decide +kernel)

/-- The admission of a head granted while a revocation's DARK waits stays held, also when a free port sends that DARK; the DARK of
the stage's own releases it. -/
theorem test_grantBehindADark :
    (∀ s, s = outstanding .keep .work (ms 200) ((queued []).setPort 0 { portA with queue := [bareReq .dark .restart] }) →
      (after .headTimerExpiry s).gov.held = [{ bay := 0, granted := ms 100, expires := ms 4100 }] ∧
      (after .headTimerExpiry s).gov.history = [{ time := ms 100, bay := 0 }]) ∧
    (∀ s, s = (queued []).setPort 0 { portA with queue := [bareReq .dark .restart] } →
      (∀ r ∈ (s.port 0).queue, r.endsAdmission = false) ∧
      (after .headTimerExpiry s).gov.held = [{ bay := 0, granted := ms 100, expires := ms 4100 }]) ∧
    (∀ s, s = (queued []).setPort 0 { portA with queue := [bareReq .dark .work] } →
      (after .headTimerExpiry s).gov.held = []) := by
  refine ⟨?_, ?_, ?_⟩ <;> (intro _ h; rw [h]; decide +kernel)

/-- Bay 0 holds an admission with a DARK queued behind its KEEP. -/
def darkBehindKeep (owner : Owner) : State :=
  outstanding .keep .work (ms 200) (((running highJob).setPort 0 { portA with queue := [bareReq .dark owner] }).setGov
    { Governor.reset with held := [{ bay := 0, granted := ms 50, expires := ms 4050 }] })

/-- The DARK sent once a KEEP is answered releases the admission, but for that of a revocation or a cleanup. -/
theorem test_darkSentAfterAKeep :
    (∀ t, t = after (.setAnswerReceived 0 (answer [3, 0])) (darkBehindKeep .restart) →
      SentNow 0 (bareReq .dark .restart) (darkBehindKeep .restart) t ∧ (t.port 0).queue = [] ∧
      t.gov = (darkBehindKeep .restart).gov) ∧
    (∀ t, t = after (.setAnswerReceived 0 (answer [3, 0])) (darkBehindKeep .work) →
      SentNow 0 (bareReq .dark .work) (darkBehindKeep .work) t ∧ (t.port 0).queue = [] ∧ t.gov.held = []) := by
  unfold SentNow; refine ⟨?_, ?_⟩ <;> (intro _ h; rw [h]; decide +kernel)

/-- What waits at a port, before and after a step: the DARK of a FAULTED bay behind its KEEP, sent when the KEEP is answered. -/
theorem test_whatWaitsAtAPort :
    ∀ s, s = outstanding .keep .work (ms 200) ((haltedIn (jobA .measure)).setPort 0 { portA with queue := [bareReq .dark .cleanup] }) →
      ((s.bay 0).state = .faulted ∧ (s.bay 0).showPending = false ∧ (s.port 0).queue = [bareReq .dark .cleanup]) ∧
      SentNow 0 (bareReq .dark .cleanup) s (after (.setAnswerReceived 0 (answer [3, 0])) s) ∧
      ((after (.setAnswerReceived 0 (answer [3, 0])) s).port 0).queue = [] := by
  intro _ h; rw [h]; unfold SentNow; decide +kernel

/-! ## The open section at a cleanup, withheld notices, the engine's choice -/

/-- The transfer outcomes of bay 0's frame. -/
def outcomes (s : State) : Option (List SectionOutcome) := (s.area 0).frame.map fun f => f.sections.map Section.outcome

/-- OPEN SECTION is out while bay 0 is cleaned up: its outcome stands until OPENED lets the CLOSE be sent, and stays where the OPEN
is refused. -/
theorem test_openOutstandingAtACleanup :
    ∀ s, s = (transferring 1 0 .writing (.openSection 1)).setPort 0
        { (transferring 1 0 .writing (.openSection 1)).port 0 with openSection := some 1 } →
      ∀ t, t = after (.jobAbort 1 0) s →
        outcomes t = some [.notSent, .notSent, .notSent] ∧ (t.port 0).queue = [closeReq 1] ∧ (t.bay 0).state = .stopped ∧
        outcomes (after (.setAnswerReceived 0 (answer [11, 0])) t) = some [.notSent, .incomplete, .notSent] ∧
        SentNow 0 (closeReq 1) t (after (.setAnswerReceived 0 (answer [11, 0])) t) ∧
        outcomes (after (.setAnswerReceived 0 (answer [11, 7])) t) = some [.notSent, .notSent, .notSent] ∧
        ((after (.setAnswerReceived 0 (answer [11, 7])) t).port 0).queue = [] ∧
        ((after (.setAnswerReceived 0 (answer [11, 7])) t).bay 0).faults = [.setRefused] ∧
        outcomes (after (.setRequestTimeout 0) { t with now := ms 200 }) = some [.notSent, .incomplete, .notSent] := by
  intro _ h _ e; rw [e, h]; unfold SentNow; decide +kernel

/-- At a FAULTED bay: OPENED and a refusal of an OPEN SECTION left over, CLOSE queued behind it. -/
theorem test_openLeftOver :
    ∀ s, s = leftSection (.openSection 1) [closeReq 1] →
      SentNow 0 (closeReq 1) s (after (.setAnswerReceived 0 (answer [11, 0])) s) ∧
      outcomes (after (.setAnswerReceived 0 (answer [11, 0])) s) = some [.notSent, .incomplete, .notSent] ∧
      (after (.setAnswerReceived 0 (answer [11, 7])) s).area 0 = s.area 0 ∧
      ((after (.setAnswerReceived 0 (answer [11, 7])) s).port 0).queue = [] ∧
      (after (.setAnswerReceived 0 (answer [11, 7])) s).link = s.link := by
  intro _ h; rw [h]; unfold SentNow; decide +kernel

/-- A break received while a RESET FULL waits leaves no trace. -/
theorem test_breakWhileAResetWaits :
    ∀ s, s = (receiving (.length []) State.reset).setLink { (receiving (.length []) State.reset).link with resetPending := true } →
      after .lineBreak s = s := by
  intro _ h; rw [h]; decide +kernel

/-- Reserved bits of the allowed-pairs word put a class out of range (log entry 20). -/
theorem test_reservedPairs :
    classInRange { classA with pairs := 0x1FFF } = false ∧ classInRange { classA with pairs := 0x8FFF } = false ∧
    after (.classLoad 1 1 { classA with pairs := 0x1FFF }) readyA = readyA.withReply 30 1 .badField [] := by
  and_intros <;> decide +kernel

/-- A FRAME with a zone status R190 does not name, and a REFERENCE of four or of six bytes, do not parse (log entry 21). -/
theorem test_deliveriesOfOtherForm :
    ∀ zones, zones = (List.replicate 11 (text [0, 100, 0])).flatten ++ text [0, 100, 9] →
      ∀ frame, frame = text [129, 1, 6, 0, 250, 0, 0, 0, 12] ++ zones →
        parseDelivery frame = none ∧ parseDelivery (text [130, 1, 4, 0, 4]) = none ∧
        parseDelivery (text [130, 1, 4, 0, 4, 0, 0]) = none ∧
        (∀ s, s = capturing (currentA .exposing) (probeA false) →
          after (.probeMessageReceived 0 (frameBytes probeStart frame)) s = s) ∧
        (∀ s, s = capturing (currentA .referencing) (probeA true) →
          after (.probeMessageReceived 0 (frameBytes probeStart (text [130, 1, 4, 0, 4, 0, 0]))) s = s) := by
  intro _ z _ f; rw [f, z]
  refine ⟨by decide +kernel, by decide +kernel, by decide +kernel, ?_, ?_⟩ <;> (intro _ h; rw [h]; decide +kernel)

/-- An entry of bay 1, whose probe warms up, and one of bay 2, whose probe is WARM. -/
def othersWait (s : State) : State :=
  ((s.setEngine { s.engine with
    queue := [{ entryA with bay := 1, number := 2 }, { entryA with bay := 2, number := 3 }] ++ s.engine.queue }).setProbe 1
    { Probe.reset with warm := .warming (ms 100) }).setProbe 2 { Probe.reset with warm := .warm, seeded := true }

/-- An idle engine takes the oldest entry whose probe is WARM: bay 2's at a settle timer and after a last sample, bay 1's once its
probe is WARM. -/
theorem test_engineChoosesTheOldestWarmEntry :
    (∀ s, s = othersWait (settling (jobA .measure) .warm 0 4) → ∀ t, t = after (.settleTimerExpiry 0) s →
      t.engine.current.map (fun c => c.entry.bay) = some 2 ∧ t.engine.queue.map Entry.bay = [1, 2, 0]) ∧
    (∀ s, s = othersWait (settling (jobA .measure) .warm 0 4) →
      (after (.warmUpExpiry 1) s).engine.current.map (fun c => c.entry.bay) = some 1) ∧
    (∀ s, s = othersWait (capturing (currentA .sampling) (stepA 6)) →
      ∀ t, t = after (.probeMessageReceived 0 (frameOf 6 0 250 12)) s →
        t.engine.current.map (fun c => c.entry.bay) = some 2 ∧ t.engine.queue.map Entry.bay = [1, 2]) := by
  refine ⟨?_, ?_, ?_⟩
  · intro _ h _ e; rw [e, h]; decide +kernel
  · intro _ h; rw [h]; decide +kernel
  · intro _ h _ e; rw [e, h]; decide +kernel

/-- A further cause at a FAULTED bay tells the station nothing; at a first fault the KEY VOIDED of the bay's own cleanup is
withheld. -/
theorem test_noticesWithheld :
    (∀ s, s = { faultedIn .running [.setRefused] (running (jobA .measure)) with now := ms 2000 } →
      (after (.lapse 0) s).link = s.link ∧ ((after (.lapse 0) s).bay 0).faults = [.setRefused, .serviceLapsed]) ∧
    (∀ s, s = { busyBay .running with now := ms 2000, stock := { stockA with waiting := [] } } →
      (after (.lapse 0) s).link = s.link.offerNotice (.fault 0 .serviceLapsed .running (some .keys) 0) ∧
      ((after (.lapse 0) s).stock.find 3).map KeyRec.state = some (.voided (some (text [83, 49])) .cleanup)) := by
  refine ⟨?_, ?_⟩ <;> (intro _ h; rw [h]; decide +kernel)

/-- A pass QUEUED at a lapse (log entry 44), and one SENT whose answer does not come, are replied before the FAULT notice. -/
theorem test_passRepliedBeforeTheFault :
    (∀ s, s = { (tunnelling (.queued 8)).setLink { readyA.link with setAside := 1 } with now := ms 2000 } →
      s.NoPassOut 0 ∧ (after (.lapse 0) s).link.placed =
        s.link.placed ++ [.reply 17 8 .badState [], .notice false (.fault 0 .serviceLapsed .tunnel none 0)]) ∧
    (∀ s, s = outstanding (.forwarded 2) .work readyA.now ((tunnelling (.sent 8)).setLink { readyA.link with setAside := 1 }) →
      (after (.setRequestTimeout 0) s).link.placed =
        s.link.placed ++ [.reply 17 8 .badState [], .notice false (.fault 0 .setSilent .tunnel none 0)]) := by
  unfold State.NoPassOut
  refine ⟨?_, ?_⟩ <;> (intro _ h; rw [h]; decide +kernel)

/-- A mismatch leaves the section PARTIAL with every zone confirmed until it is opened again; a KEEP that is due comes between. -/
theorem test_mismatchIsPartial :
    (∀ s, s = transferring 2 0 .writing (.burst 2 0 true) → ∀ t, t = after (.setAnswerReceived 0 (answer [12, 0, 0, 0])) s →
      outcomes t = some [.notSent, .notSent, .incomplete] ∧ SentNow 0 (openReq 2) s t ∧ get12 (t.seq 0).confirmed 2 = 0) ∧
    (∀ s, s = (transferring 2 0 .writing (.burst 2 0 true)).setPort 0
        { (transferring 2 0 .writing (.burst 2 0 true)).port 0 with keepDue := true } →
      ∀ t, t = after (.setAnswerReceived 0 (answer [12, 0, 0, 0])) s →
        SentNow 0 (bareReq .keep .work) s t ∧ (t.port 0).queue = [openReq 2] ∧ get12 (t.seq 0).confirmed 2 = 12) ∧
    (∀ s, s = transferring 2 1 .writing (.burst 2 0 true) → ∀ t, t = after (.setAnswerReceived 0 (answer [12, 0, 0, 0])) s →
      outcomes t = some [.notSent, .notSent, .incomplete] ∧ get12 (t.seq 0).confirmed 2 = 12) ∧
    (∀ t, t = after (.setAnswerReceived 0 (answer [12, 0, 0xA1, 0xB0])) (transferring 0 0 .writing (.burst 0 0 true)) →
      get12 (t.seq 0).confirmed 0 = 12) := by
  unfold SentNow
  refine ⟨?_, ?_, ?_, ?_⟩
  · intro _ h _ e; rw [e, h]; decide +kernel
  · intro _ h _ e; rw [e, h]; decide +kernel
  · intro _ h _ e; rw [e, h]; decide +kernel
  · intro _ e; rw [e]; decide +kernel

/-- DARK answered in MEASURE: the showing flag clears, and the next patch is shown, or its admission asked for. -/
theorem test_darkBeginsTheNextPatch :
    (∀ s, s = (working (jobA .measure) .dark).setBay 0 { (working (jobA .measure) .dark).bay 0 with showing := true } →
      SentNow 0 (showReq .green 64) s (after (.setAnswerReceived 0 (answer [7, 0])) s)) ∧
    (∀ s, s = ((working highJob .dark).setBay 0 { (working highJob .dark).bay 0 with showing := true }).setGov
        { Governor.reset with queue := [{ bay := 2, joined := 0 }] } →
      ∀ t, t = after (.setAnswerReceived 0 (answer [7, 0])) s →
        (t.bay 0).showing = false ∧ t.gov.queue = [{ bay := 2, joined := 0 }, { bay := 0, joined := ms 100 }] ∧
        (t.port 0).outstanding = none) := by
  unfold SentNow
  refine ⟨?_, ?_⟩
  · intro _ h; rw [h]; decide +kernel
  · intro _ h _ e; rw [e, h]; decide +kernel

/-- The removal of a bay that heads the admission queue keeps its query counters. -/
theorem test_removalKeepsTheCounters :
    ∀ s, s = pollDue ((queued []).setBay 0 { (queued []).bay 0 with requests := 7, discarded := 3 }) →
      ∀ t, t = after (.poll 0 false) s → (t.bay 0).state = .empty ∧ (t.bay 0).requests = 7 ∧ (t.bay 0).discarded = 3 ∧
        t.gov.queue = [] := by
  intro _ h _ e; rw [e, h]; decide +kernel

/-! ## What is sent to a probe, and what follows an answer -/

/-- Bay 0 settles on its patch, its probe's record as given. -/
def settlingWith (p : Probe) : State := (settling (jobA .measure) .warm 0 4).setProbe 0 p

/-- A first frame at step 12 after sequence 255, one seeded from the class, and a reference; with no probe WARM nothing is sent. -/
theorem test_probeRequestSent :
    (∀ s, s = settlingWith { Probe.reset with warm := .warm, seeded := true, step := 12, seqNo := 255 } →
      ∀ t, t = after (.settleTimerExpiry 0) s → FrameAsked 0 (s.probe 0) 4 3 s t ∧
        (t.probe 0).outstanding.map ProbeReq.deadline = some (ms 812 + 250) ∧ (t.probe 0).seqNo = 0) ∧
    (∀ s, s = settlingWith { Probe.reset with warm := .warm } →
      FrameAsked 0 { s.probe 0 with step := 1, seeded := true } 4 3 s (after (.settleTimerExpiry 0) s)) ∧
    (∀ s, s = settlingWith { Probe.reset with warm := .warm, count := 48, seqNo := 7 } →
      ReferenceAsked 0 (s.probe 0) s (after (.settleTimerExpiry 0) s)) ∧
    (∀ s, s = settlingWith Probe.reset → (after (.settleTimerExpiry 0) s).out.pptx = s.out.pptx) := by
  unfold FrameAsked ReferenceAsked
  refine ⟨?_, ?_, ?_, ?_⟩
  · intro _ h _ e; rw [e, h]; decide +kernel
  all_goals intro _ h; rw [h]; decide +kernel

/-- The next frame after a step, after a settled loop, after a discarded sample and after a reference, at the step then in force. -/
theorem test_nextFrameAsked :
    (∀ s, s = capturing (currentA .exposing) (stepA 6) →
      FrameAsked 0 { s.probe 0 with step := 7 } 4 3 s (after (.probeMessageReceived 0 (frameOf 6 0 249 12)) s) ∧
      FrameAsked 0 (s.probe 0) 4 3 s (after (.probeMessageReceived 0 (frameOf 6 0 250 12)) s)) ∧
    (∀ s, s = capturing (currentA .sampling) (stepA 6) →
      FrameAsked 0 (s.probe 0) 4 3 s (after (.probeMessageReceived 0 (frameOf 6 0 250 11)) s)) ∧
    (∀ s, s = capturing (currentA .referencing) (probeA true) →
      FrameAsked 0 { s.probe 0 with factor := 1050, count := 0, fault := false, step := 1, seeded := true } 4 3 s
        (after (.probeMessageReceived 0 (referenceOf 8631 8850)) s)) := by
  unfold FrameAsked
  refine ⟨?_, ?_, ?_⟩ <;> (intro _ h; rw [h]; decide +kernel)

/-- After a capture that fails, and after one that an abort abandons, the engine takes bay 2's entry and asks its probe for a frame. -/
theorem test_engineFreed :
    ∀ s, s = othersWait (capturing { currentA .sampling with discarded := 3 } (stepA 6)) → s.engine.currentBay = some 0 ∧
      ∀ t, t = after (.probeMessageReceived 0 (frameOf 6 0 250 11)) s ∨ t = after (.jobAbort 1 0) s →
        t.engine.current.map (fun c => c.entry.bay) = some 2 ∧ FrameAsked 2 (s.probe 2) 4 3 s t := by
  intro _ h; rw [h]; unfold FrameAsked
  refine ⟨by decide +kernel, ?_⟩
  rintro _ (e | e) <;> (rw [e]; decide +kernel)

/-- An abort halts a key transfer whose chunk is outstanding, and ends one whose chunk is not. -/
theorem test_transferAtACleanup :
    (∀ s, s = chunking 0 1 true .work →
      (after (.jobAbort 1 0) s).xfer 0 = { phase := .halted, keyId := some 3, chunks := 2, cursor := 1 }) ∧
    (∀ s, s = (chunking 0 1 true .work).setPort 0 { portA with queue := [] } →
      (after (.jobAbort 1 0) s).xfer 0 = Xfer.reset) := by
  refine ⟨?_, ?_⟩ <;> (intro _ h; rw [h]; decide +kernel)

/-- After a matching section the next one is opened, after the last APPLY MAP placed; VERIFY asks for its admission. -/
theorem test_transferGoesOn :
    (∀ s, s = transferring 1 0 .writing (.burst 1 0 true) →
      ∀ t, t = after (.setAnswerReceived 0 (answer [12, 0, 0xA1, 0xB0])) s →
        (t.seq 0).phase = .opening ∧ SentNow 0 (openReq 2) s t ∧ (t.port 0).openSection = some 2) ∧
    (∀ s, s = transferring 2 0 .writing (.burst 2 0 true) →
      ∀ t, t = after (.setAnswerReceived 0 (answer [12, 0, 0xA1, 0xB0])) s →
        (t.seq 0).phase = .applying ∧ SentNow 0 (bareReq .applyMap .work) s t) ∧
    (∀ s, s = transferring 3 0 .writing .applyMap → ∀ t, t = after (.setAnswerReceived 0 (answer [14, 0])) s →
      (0 : Bay) ∉ s.gov.claimants ∧ t.gov.held.map Held.bay = [0] ∧ SentNow 0 (showReq .red 64) s t) := by
  unfold SentNow
  refine ⟨?_, ?_, ?_⟩ <;> (intro _ h _ e; rw [e, h]; decide +kernel)

/-- KEY END out for key 3, key 1 AVAILABLE, the profile's key classes as given. -/
def endingOf (classes : List Nat) : State :=
  ((ending 0).setStock { records := [keyRec 1 .available, keyRec 3 (.sending 0)], nextSeq := 4, waiting := [] }).setTable
    { tableA with profiles := tableA.profiles.set 0 { content := some { profileA with keyClasses := classes }, refs := 1 } }

/-- STORED that matches: a further class gets its first chunk, the list done FINISH begins with its STAGE; one that differs has key 1
reserved and sent. -/
theorem test_keysGoOn :
    (StockOk (endingOf []).stock ∧ (endingOf []).stock.claimants.Nodup) ∧
    (∀ s, s = endingOf [1, 1] → ∀ t, t = after (.setAnswerReceived 0 (answer [10, 0, 0xEC, 0xBB, 0x4B, 0x55])) s →
      (t.bay 0).job = some { jobA .keys with keyId := some 1, keyCursor := 1 } ∧ SentNow 0 (chunkReq 1 0 1 keyA.blob) s t) ∧
    (∀ s, s = endingOf [1] → ∀ t, t = after (.setAnswerReceived 0 (answer [10, 0, 0xEC, 0xBB, 0x4B, 0x55])) s →
      (t.bay 0).job = some { jobA .finish with keyCursor := 1 } ∧ SentNow 0 (bareReq .finish .work) s t ∧
      NoticedInTurn [.keyBound 3 1 1 0 (text [83, 49]), .stage 0 .finish 0] s t) ∧
    (∀ s, s = endingOf [1] → ∀ t, t = after (.setAnswerReceived 0 (answer [10, 0, 0, 0, 0, 0])) s →
      (t.bay 0).job = some { jobA .keys with keyId := some 1, attempts := 1 } ∧ SentNow 0 (chunkReq 1 0 1 keyA.blob) s t) := by
  refine ⟨⟨stockOk_of_checks _ (by decide) (by decide) (by decide +kernel) (by decide) (by decide), by decide +kernel⟩, ?_, ?_, ?_⟩
  all_goals (intro _ h _ e; rw [e, h]; unfold SentNow; first | decide +kernel | (unfold NoticedInTurn; decide +kernel))

/-- What a set is owed goes before the restart point: CLOSE SECTION, DARK, then the SHOW of a grant made at once, and no SHOW for a
bay that has to wait; in hold CLOSE, WAKE and DARK alone, the key reserved. -/
theorem test_resumeOwesFirst :
    (∀ s, s = ((haltedIn highJob).setPort 0 { portA with openSection := some 1 }).setBay 0
        { (haltedIn highJob).bay 0 with showing := true } →
      FaultedQueueOk (s.bay 0) (s.port 0) ∧ (s.port 0).owed true = [closeReq 1, bareReq .dark .cleanup] ∧
      (∀ t, t = after (.bayResume 1 0) s → SentNow 0 (closeReq 1) s t ∧ t.gov.held.map Held.bay = [0] ∧
        (t.port 0).queue = [bareReq .dark .cleanup, showReq .red 512]) ∧
      ∀ t, t = after (.bayResume 1 0) (s.setGov { Governor.reset with queue := [{ bay := 2, joined := 0 }] }) →
        (t.port 0).queue = [bareReq .dark .cleanup]) ∧
    (∀ s, s = outstanding .dark .restart (ms 200) (haltedIn highJob) → ∀ t, t = after (.bayResume 1 0) s →
      (t.bay 0).showPending = true ∧ (t.port 0).queue = [] ∧ t.gov.held.map Held.bay = [0]) ∧
    (∀ s, s = (((haltedIn (jobA .keys)).setStock oneKey).setPort 0 { portA with openSection := some 1, hold := .held }).setBay 0
        { (haltedIn (jobA .keys)).bay 0 with showing := true } → FaultedQueueOk (s.bay 0) (s.port 0) ∧
      ∀ t, t = after (.bayResume 1 0) s → SentNow 0 (bareReq .wake .cleanup) s t ∧
        (t.port 0).queue = [closeReq 1, bareReq .dark .cleanup] ∧ (t.stock.find 1).map KeyRec.state = some (.reserved 0)) := by
  unfold SentNow FaultedQueueOk
  refine ⟨?_, ?_, ?_⟩
  · intro _ h; rw [h]
    refine ⟨by decide +kernel, by decide +kernel, ?_, ?_⟩ <;> (intro _ e; rw [e]; decide +kernel)
  · intro _ h _ e; rw [e, h]; decide +kernel
  · intro _ h; rw [h]; exact ⟨by decide +kernel, by intro _ e; rw [e]; decide +kernel⟩

end Sys2Proof.Tests
end

section
/-! SUPPORT. The receiver of the line link (R170 to R173): what it does with a byte in each phase, with a complete frame and with a
break, and the two statements about it. -/

namespace Sys2Proof.Machine

open Sys2Proof

variable {l m : Link} {s t : State} {byte kind tag check : Byte} {body taken : List Byte} {n : Nat}

/-! ## A complete frame (R171) -/

/-- The CRC that a frame over this length, kind, tag and body carries (R184, R185). -/
def frameCheck (n : Nat) (kind tag : Byte) (body : List Byte) : List Byte :=
  be16 (crc16 (be16 n ++ kind :: tag :: body)).toNat

/-- The checks of R171 read the body and the two CRC bytes of a complete frame as they were sent. -/
theorem checkFrame_split (l : Link) {crc : List Byte} (hn : body.length + 4 = n) :
    l.checkFrame n (kind :: tag :: (body ++ crc)) =
      if crc ≠ frameCheck n kind tag body then l.raise (.crc kind tag)
      else if 4 ≤ l.inBuf.length then l.raise (.overrun kind tag)
      else { l with inBuf := l.inBuf ++ [{ kind := kind, tag := tag, body := body }] } := by
  have hb : n - 4 = body.length := by omega
  simp only [Link.checkFrame, hb, List.take_left, List.drop_left]
  rfl

theorem checkFrame_badCrc {crc : List Byte} (hn : body.length + 4 = n) (hc : frameCheck n kind tag body ≠ crc) :
    l.checkFrame n (kind :: tag :: (body ++ crc)) = l.raise (.crc kind tag) := by
  rw [checkFrame_split l hn, if_pos hc.symm]

theorem checkFrame_noRoom {crc : List Byte} (hn : body.length + 4 = n) (hc : frameCheck n kind tag body = crc)
    (room : 4 ≤ l.inBuf.length) : l.checkFrame n (kind :: tag :: (body ++ crc)) = l.raise (.overrun kind tag) := by
  rw [checkFrame_split l hn, if_neg (not_not_intro hc.symm), if_pos room]

theorem checkFrame_accepted {crc : List Byte} (hn : body.length + 4 = n) (hc : frameCheck n kind tag body = crc)
    (room : l.inBuf.length < 4) : l.checkFrame n (kind :: tag :: (body ++ crc)) =
      { l with inBuf := l.inBuf ++ [{ kind := kind, tag := tag, body := body }] } := by
  rw [checkFrame_split l hn, if_neg (not_not_intro hc.symm), if_neg (Nat.not_le.mpr room)]

/-! ## The length (R170) -/

theorem judgeLength_inRange (lo : 4 ≤ n) (hi : n ≤ 1021) : l.judgeLength n = { l with rx := .frame n [] } :=
  if_pos ⟨lo, hi⟩

theorem judgeLength_outOfRange (h : n < 4 ∨ 1021 < n) :
    l.judgeLength n = ({ l with rx := .hunt }).raise (.length n) :=
  if_neg (by omega)

/-! ## One byte, phase by phase (R170) -/

theorem takeByte_hunt (h : l.rx = .hunt) :
    l.takeByte byte = if byte = 165 then { l with rx := .length [] } else l := by
  simp only [Link.takeByte, h]
  rfl

theorem takeByte_firstLength (h : l.rx = .length []) : l.takeByte byte = { l with rx := .length [byte] } := by
  simp only [Link.takeByte, h]

theorem takeByte_secondLength {hi : Byte} (h : l.rx = .length [hi]) :
    l.takeByte byte = l.judgeLength (hi.toNat * 256 + byte.toNat) := by
  simp only [Link.takeByte, h, nat16]

theorem takeByte_partialFrame (h : l.rx = .frame n taken) (hn : taken.length + 1 < n) :
    l.takeByte byte = { l with rx := .frame n (taken ++ [byte]) } := by
  have hlt : (taken ++ [byte]).length < n := by simpa using hn
  simp only [Link.takeByte, h, if_pos hlt]

/-- The last byte of a frame is its second CRC byte, and the receiver hunts again while the frame is checked. -/
theorem takeByte_lastOfFrame (h : l.rx = .frame n (kind :: tag :: body ++ [check])) (hn : body.length + 4 = n) :
    l.takeByte byte = ({ l with rx := .hunt }).checkFrame n (kind :: tag :: (body ++ [check, byte])) := by
  have hlen : ¬ (kind :: tag :: body ++ [check] ++ [byte]).length < n := by simp; omega
  simp only [Link.takeByte, h, if_neg hlen]
  simp

/-! ## The two events (R170, R172, R182) -/

theorem lineByteReceived_discarded (h : s.link.resetPending = true) : exec (.lineByteReceived byte) s = .next s := by
  simp only [exec, execLineByteReceived, h, if_true]

/-- With no RESET FULL waiting the line link takes the byte, and nothing else changes. -/
theorem lineByteReceived_taken (h : s.link.resetPending = false) (e : s.link.takeByte byte = m) :
    exec (.lineByteReceived byte) s = .next (s.setLink m) := by
  simp only [exec, execLineByteReceived, h, e, Bool.false_eq_true, if_false]

/-- A byte that a hunting receiver is given: only the start byte is taken. -/
theorem lineByteReceived_hunt (h : s.link.resetPending = false) (hunt : s.link.rx = .hunt) :
    exec (.lineByteReceived byte) s =
      .next (if byte = 165 then s.setLink { s.link with rx := .length [] } else s) := by
  rw [lineByteReceived_taken h (takeByte_hunt hunt)]
  split <;> rfl

theorem lineBreak_discarded (h : s.link.resetPending = true) : exec .lineBreak s = .next s := by
  simp only [exec, execLineBreak, h, if_true]

theorem lineBreak_taken (h : s.link.resetPending = false) :
    exec .lineBreak s = .next (s.setLink (({ s.link with rx := .hunt }).raise (.brk s.link.rx.partialFrame))) := by
  simp only [exec, execLineBreak, h, Bool.false_eq_true, if_false]

/-! ## What a framing error leaves alone (R173) -/

/-- Raising a framing error counts and offers a notice: it moves no receiver and no RESET FULL. -/
theorem raise_receiver (l : Link) (e : LinkError) : (l.raise e).rx = l.rx ∧ (l.raise e).resetPending = l.resetPending := by
  obtain ⟨rx, -, -, -, reset, -⟩ := offerNotice_same { l with errs := _ } (.linkError e)
  exact ⟨rx, reset⟩

/-! ## The partial frame (R172) -/

theorem partialFrame_eq_decide (r : Receiver) : r.partialFrame = decide (r ≠ .hunt) := by
  cases r <;> simp [Receiver.partialFrame]

theorem ne_hunt_iff (r : Receiver) : r ≠ .hunt ↔ (∃ l, r = .length l) ∨ ∃ n l, r = .frame n l := by
  cases r <;> simp

/-- A break leaves the receiver hunting and no RESET FULL waiting, so the next byte is judged in HUNT. -/
theorem lineByteReceived_afterBreak (h : s.link.resetPending = false) (e : exec .lineBreak s = .next t) :
    exec (.lineByteReceived byte) t =
      .next (if byte = 165 then t.setLink { t.link with rx := .length [] } else t) := by
  rw [lineBreak_taken h] at e
  cases e
  obtain ⟨rx, reset⟩ := raise_receiver { s.link with rx := .hunt } (.brk s.link.rx.partialFrame)
  exact lineByteReceived_hunt (reset.trans h) rx

end Sys2Proof.Machine

namespace Sys2Proof.Proofs

open Sys2Proof Sys2Proof.Machine

/-- Settles O15, phase by phase: each clause is what `takeByte` does in that phase, and a complete frame's clauses are the checks of
R171 in their order. -/
theorem theReceiverTakesAByteByItsPhase : Obligations.TheReceiverTakesAByteByItsPhase := by
  unfold Obligations.TheReceiverTakesAByteByItsPhase
  intro byte s
  refine ⟨lineByteReceived_discarded, fun noReset => ?_⟩
  refine ⟨fun hunt other => ?_, fun hunt start => ?_, fun len => ?_, fun hi len lo up => ?_, fun hi len out => ?_,
    fun n taken frame short => ?_, fun n kind tag body check frame size => ⟨fun bad => ?_, fun good full => ?_, fun good room => ?_⟩⟩
  · rw [lineByteReceived_hunt noReset hunt, if_neg other]
  · rw [lineByteReceived_hunt noReset hunt, if_pos start]
  · exact lineByteReceived_taken noReset (takeByte_firstLength len)
  · exact lineByteReceived_taken noReset ((takeByte_secondLength len).trans (judgeLength_inRange lo up))
  · exact lineByteReceived_taken noReset ((takeByte_secondLength len).trans (judgeLength_outOfRange out))
  · exact lineByteReceived_taken noReset (takeByte_partialFrame frame short)
  · exact lineByteReceived_taken noReset ((takeByte_lastOfFrame frame size).trans (checkFrame_badCrc size bad))
  · exact lineByteReceived_taken noReset ((takeByte_lastOfFrame frame size).trans (checkFrame_noRoom size good full))
  · exact lineByteReceived_taken noReset ((takeByte_lastOfFrame frame size).trans (checkFrame_accepted size good room))

/-- Settles O16: a break is a framing error raised at a receiver that hunts, and raising one moves no receiver. -/
theorem aBreakDropsThePartialFrame : Obligations.ABreakDropsThePartialFrame := by
  unfold Obligations.ABreakDropsThePartialFrame
  intro s
  refine ⟨lineBreak_discarded, fun noReset => ⟨?_, ?_, fun byte t => lineByteReceived_afterBreak noReset⟩⟩
  · rw [lineBreak_taken noReset, partialFrame_eq_decide]
    rfl
  · rw [decide_eq_true_iff, ne_hunt_iff]

end Sys2Proof.Proofs
end
